-- ==== Sys2Proof/Word.lean ====
section
/-! DEFINITION. The two word types of the PNG-CF block: a byte of a stream or of a pixel, and the 32-bit word of the
file format's `u32` fields and of the registers that hold them (spec/00_scope.md R9, spec/10_state.md R21 to R33). -/

namespace Sys2Proof

/-- A byte, an unsigned integer 0 to 255 (R9). -/
abbrev Byte := BitVec 8

/-- A `u32` (R9). -/
abbrev Word := BitVec 32

end Sys2Proof
end

