-- ==== Sys2Proof/Config.lean ====
section
/-! DEFINITION. What an implementation of the PNG-CF block fixes (spec/00_scope.md R7, R8) and the free values: constants
with no body, which stand for what the spec leaves open. A claim that mentions one holds whatever it is. -/

namespace Sys2Proof

/-- The five filter types (R103). -/
inductive FilterType where
  | none | sub | up | avg | paeth
deriving DecidableEq, Repr, Inhabited

/-- The build's parameters that the rules test (R8, D18). They ride in `State.build`, which no step changes, so a
statement over all states is a statement over every build. -/
structure Build where
  /-- `MAX_DIM`, the largest width and height accepted. -/
  maxDim : Word
  /-- `MAX_LEN`, the largest chunk length accepted. -/
  maxLen : Word
deriving DecidableEq, Repr

/-- The defaults of R8: the whole range of the field for both. -/
def Build.default : Build := { maxDim := 0xFFFFFFFF, maxLen := 0xFFFFFFFF }

/-- `BPP`, bytes per pixel (R7). -/
def Config.bpp : Nat := 3

/-- The attached Compression Adapter's `inflate` (R160, D35): a function, `none` for a failure; nothing else is known. -/
opaque Config.inflate : List Byte → Option (List Byte)

/-- The attached Compression Adapter's `deflate` (R160, D35): a function of the bytes and the level, `none` for a failure. -/
opaque Config.deflate : List Byte → Byte → Option (List Byte)

/-- FREE VALUE: the content of the pixel-memory byte at an address that nothing has written since the content last became
"no value" (R206, R263, U7). First argument: the state's counter `epoch`. Log entry 7. -/
opaque Config.freePixel : Nat → Nat → Byte

/-- FREE VALUE: the content of a cell of `CUR` that nothing has written (R38 "unspecified"). Log entry 6. -/
opaque Config.freeCur : Nat → Nat → Byte

/-- FREE VALUE: the content of a cell of `PREV` that nothing has written (R38 "unspecified"). Log entry 6. -/
opaque Config.freePrev : Nat → Nat → Byte

/-- FREE VALUE: how many bytes of a write that failed reached the host's stream (R157, U5). Log entry 8. -/
opaque Config.freeWritten : Nat → Nat

/-- FREE VALUE: the filter choice for a value of `FCTL` outside 0 to 5, which no host write can install (R32, R192: "any
function into {0..4} is conforming"). Arguments: `FCTL`, the row, the row above. Log entry 11. -/
opaque Config.freeFsel : Byte → List Byte → List Byte → FilterType

end Sys2Proof
end

