-- ==== Sys2Proof/Syntax.lean ====
section
/-! DEFINITION. The syntax: one constructor of `Instr` per row of spec/opcode_table.json (38 rows), and the formats of
spec/30_encoding.md R90 in which the rows are encoded. -/

namespace Sys2Proof

/-- The operations of the block. Operands that the rules read from registers or buffers of the block are not in the
syntax; operands that a rule receives (`type`, `payload`, `b`, `v`, the neighbours of `PAETH`) are. -/
inductive Instr where
  /-- `CMD = 0x01` (R210). -/
  | decode
  /-- `CMD = 0x02` (R211). -/
  | encode
  /-- `CMD = 0x03` (R201). -/
  | pixGet
  /-- `CMD = 0x04` (R202). -/
  | pixSet
  /-- `CMD = 0x00, 0x05 .. 0xFF` (R110). -/
  | cmdReserved (code : Byte)
  /-- Read and check the signature (R131). -/
  | rdSig
  /-- Emit the signature (R151). -/
  | wrSig
  /-- Frame one chunk, check its CRC, dispatch on its type (R132). -/
  | rdChunk
  /-- The IHDR chunk on decode, with the payload `RD.CHUNK` delivers (R137). -/
  | chunkIhdr (payload : List Byte)
  /-- The IDAT chunk on decode (R138). -/
  | chunkIdat (payload : List Byte)
  /-- The IEND chunk on decode (R139). -/
  | chunkIend (payload : List Byte)
  /-- A chunk of any other type on decode (R140). -/
  | chunkOther (type : Word) (payload : List Byte)
  /-- Emit the IHDR chunk (R153). -/
  | emitIhdr
  /-- Emit the IDAT chunks (R154). -/
  | emitIdat
  /-- Emit the IEND chunk (R155). -/
  | emitIend
  /-- Emit one chunk (R152). -/
  | wrChunk (type : Word) (payload : List Byte)
  /-- Row type 0 on decode (R173). -/
  | reconNone
  /-- Row type 1 on decode (R174). -/
  | reconSub
  /-- Row type 2 on decode (R175). -/
  | reconUp
  /-- Row type 3 on decode (R176). -/
  | reconAvg
  /-- Row type 4 on decode (R177). -/
  | reconPaeth
  /-- Row type 0 on encode (R186). -/
  | filtNone
  /-- Row type 1 on encode (R187). -/
  | filtSub
  /-- Row type 2 on encode (R188). -/
  | filtUp
  /-- Row type 3 on encode (R189). -/
  | filtAvg
  /-- Row type 4 on encode (R190). -/
  | filtPaeth
  /-- Row type 5 to 255 on decode (R182). -/
  | rowIllegal (ft : Byte)
  /-- `CRCACC` to its initial value (R121). -/
  | crcInit
  /-- One byte into `CRCACC` (R122). -/
  | crcUpdate (b : Byte)
  /-- The checksum in `CRCACC` (R123). -/
  | crcFinal
  /-- The checksum of a chunk (R124). -/
  | crcChunk (type : Word) (payload : List Byte)
  /-- `FBUF <- inflate(ZBUF)` (R161). -/
  | zportInflate
  /-- `ZBUF <- deflate(FBUF, LEVEL)` (R162). -/
  | zportDeflate
  /-- The Paeth predictor of left, up, upLeft (R181). -/
  | paeth (a b c : Byte)
  /-- Four bytes to a `u32`, big-endian (R100). -/
  | be32 (b0 b1 b2 b3 : Byte)
  /-- A `u32` to four bytes, big-endian (R101). -/
  | enc32 (v : Word)
  /-- The host's read of register 11 (R204). -/
  | pixWidth
  /-- The host's read of register 12 (R204). -/
  | pixHeight
deriving DecidableEq, Repr

/-- The encodings an operation can be written in. The formats of R90, split by direction, because the same bits stand for
one operation on decode and for another on encode (R93, R103). Log entry 19. -/
inductive Format where
  /-- The 8-bit value written to register `CMD` (R109). -/
  | cmd
  /-- The 8 signature bytes of the input stream (R91): what `RD.SIG` reads, not what selects it (R111). -/
  | sigIn
  /-- The 8 signature bytes of the output stream (R91): what `WR.SIG` writes, not what selects it (R111). -/
  | sigOut
  /-- A whole chunk of the input stream (R92, R93). -/
  | chunkIn
  /-- A whole chunk of the output stream (R92): what `WR.CHUNK` writes, not what selects it (R111). -/
  | chunkOut
  /-- The four type bytes of the chunks that an emitting operation writes (R93). -/
  | typeOut
  /-- The filter-type byte of a row of `FBUF` on decode (R103). -/
  | rowIn
  /-- The filter-type byte of a row of `FBUF` on encode (R103). -/
  | rowOut
  /-- The number of a register the host reads (R204). -/
  | reg
  /-- No bit pattern of its own: invoked by name (R111). -/
  | internal
deriving DecidableEq, Repr

end Sys2Proof
end

