-- ==== Sys2Proof/Machine/Bytes.lean ====
section
/-! DEFINITION. The byte-level functions of the spec: big-endian assembly (R100, R101), the CRC-32 (R120 to R124), the
fixed byte strings and type codes (R91, R93), and the codes of the filter types (R103). -/

namespace Sys2Proof

/-- `be32(b)` of four bytes, the first most significant (R100). -/
def be32 (b0 b1 b2 b3 : Byte) : Word :=
  (b0.setWidth 32 <<< 24) ||| (b1.setWidth 32 <<< 16) ||| (b2.setWidth 32 <<< 8) ||| b3.setWidth 32

/-- `be32` of a sequence that has four bytes; the rules give it no other (R100). -/
def be32Of (bs : List Byte) : Word :=
  be32 (bs.getD 0 0) (bs.getD 1 0) (bs.getD 2 0) (bs.getD 3 0)

/-- `enc32(v)` = `v[31:24], v[23:16], v[15:8], v[7:0]` (R101). -/
def enc32 (v : Word) : List Byte :=
  [v.extractLsb' 24 8, v.extractLsb' 16 8, v.extractLsb' 8 8, v.extractLsb' 0 8]

/-- The signature (R91). -/
def signature : List Byte := [0x89, 0x50, 0x4E, 0x47, 0x0D, 0x0A, 0x1A, 0x0A]

/-- The type `IHDR` (R93). -/
def typeIHDR : Word := 0x49484452
/-- The type `IDAT` (R93). -/
def typeIDAT : Word := 0x49444154
/-- The type `IEND` (R93). -/
def typeIEND : Word := 0x49454E44

/-- The reflected generator `POLY` (R120). -/
def crcPoly : Word := 0xEDB88320

/-- The initial value of the remainder (R120, R121). -/
def crcInitial : Word := 0xFFFFFFFF

/-- The remainder's final complement (R123). -/
def crcComplement (c : Word) : Word := c ^^^ 0xFFFFFFFF

/-- One shift step of R122. -/
def crcShift (c : Word) : Word :=
  if c.getLsbD 0 then (c >>> 1) ^^^ crcPoly else c >>> 1

/-- `n` shift steps. -/
def crcShifts : Nat → Word → Word
  | 0, c => c
  | n + 1, c => crcShifts n (crcShift c)

/-- `CRC.UPDATE(b)` on the remainder `c` (R122). -/
def crcByte (c : Word) (b : Byte) : Word := crcShifts 8 (c ^^^ b.setWidth 32)

/-- `CRC.UPDATE` over a sequence in order, with no new `CRC.INIT` (R126). -/
def crcBytes (c : Word) (s : List Byte) : Word := s.foldl crcByte c

/-- `crc32(s)` (R124). -/
def crc32 (s : List Byte) : Word := crcComplement (crcBytes crcInitial s)

/-- The code of a filter type (R103). -/
def FilterType.code : FilterType → Byte
  | .none => 0
  | .sub => 1
  | .up => 2
  | .avg => 3
  | .paeth => 4

/-- The filter type with a code, if there is one (R103, R105). -/
def FilterType.ofCode (ft : Byte) : Option FilterType :=
  if ft = 0 then some .none
  else if ft = 1 then some .sub
  else if ft = 2 then some .up
  else if ft = 3 then some .avg
  else if ft = 4 then some .paeth
  else Option.none

/-- A chunk as bytes: `enc32(|payload|) ++ type ++ payload ++ enc32(crc32(type ++ payload))` (R92, R228). -/
def chunkBytes (type : Word) (payload : List Byte) : List Byte :=
  enc32 (BitVec.ofNat 32 payload.length) ++ enc32 type ++ payload ++ enc32 (crc32 (enc32 type ++ payload))

end Sys2Proof
end

