-- ==== Sys2Proof/WellFormed.lean ====
section
/-! DEFINITION. The checks an instruction's operands must meet, as the format tables of spec/30_encoding.md give them. -/

namespace Sys2Proof

/-- A payload's length fits the 32-bit length field (R92, R152 "`|payload| <= 2^32 - 1`"). -/
def payloadFits (payload : List Byte) : Bool := decide (payload.length < 2 ^ 32)

/-- The operand checks, one line per constructor. -/
def Instr.wellFormed : Instr → Bool
  | .decode => true
  | .encode => true
  | .pixGet => true
  | .pixSet => true
  | .cmdReserved code => decide (code ≠ 1 ∧ code ≠ 2 ∧ code ≠ 3 ∧ code ≠ 4)
  | .rdSig => true
  | .wrSig => true
  | .rdChunk => true
  | .chunkIhdr payload => payloadFits payload
  | .chunkIdat payload => payloadFits payload
  | .chunkIend payload => payloadFits payload
  | .chunkOther type payload =>
      decide (type ≠ typeIHDR ∧ type ≠ typeIDAT ∧ type ≠ typeIEND) && payloadFits payload
  | .emitIhdr => true
  | .emitIdat => true
  | .emitIend => true
  | .wrChunk _ payload => payloadFits payload
  | .reconNone => true
  | .reconSub => true
  | .reconUp => true
  | .reconAvg => true
  | .reconPaeth => true
  | .filtNone => true
  | .filtSub => true
  | .filtUp => true
  | .filtAvg => true
  | .filtPaeth => true
  | .rowIllegal ft => decide (4 < ft.toNat)
  | .crcInit => true
  | .crcUpdate _ => true
  | .crcFinal => true
  | .crcChunk _ _ => true
  | .zportInflate => true
  | .zportDeflate => true
  | .paeth _ _ _ => true
  | .be32 _ _ _ _ => true
  | .enc32 _ => true
  | .pixWidth => true
  | .pixHeight => true

end Sys2Proof
end

