-- ==== Sys2Proof/Decode.lean ====
section
/-! DEFINITION. The decoder, total on any bytes and rejecting by name, then the encoder, written from the same tables of
spec/30_encoding.md (R91 to R97, R100 to R111), and the host's numbering of the opcode table's words. The same bits mean
different operations in different formats (R93, R103, R109), so a decoder is told which format it reads; the machine tells
it by its state (Machine/Sequencer.lean). Log entry 19. -/

namespace Sys2Proof

/-- Why bytes are no instruction of a format. -/
inductive DecodeError where
  /-- `CMD` or register port: no value. -/
  | noValue
  /-- Not the 8 signature bytes (R91). -/
  | notSignature
  /-- Fewer than 4 bytes for the length field (R142). -/
  | truncLength
  /-- Fewer than 4 bytes for the type field (R142). -/
  | truncType
  /-- Fewer than `length` payload bytes (R142). -/
  | truncPayload
  /-- Fewer than 4 bytes for the CRC field (R142). -/
  | truncCrc
  /-- The CRC field is not the CRC of type and payload (R133). -/
  | crcMismatch
  /-- A type no emitting operation writes (R150). -/
  | typeNotEmitted
  /-- A filter-type byte that encode never produces (R103). -/
  | filterNotEmitted
  /-- A register whose read is no row of the opcode table (R204). -/
  | notImageSize
  /-- The operations with no encoding of their own (R111). -/
  | noEncoding
deriving DecidableEq, Repr

/-- The opcode map of `CMD` (R109, R110): total on the byte. -/
def decodeCmd (code : Byte) : Instr :=
  if code = 1 then .decode
  else if code = 2 then .encode
  else if code = 3 then .pixGet
  else if code = 4 then .pixSet
  else .cmdReserved code

/-- The opcode map of the chunk type on decode (R93, R106): total on the word; the comparison is exact. -/
def decodeChunk (type : Word) (payload : List Byte) : Instr :=
  if type = typeIHDR then .chunkIhdr payload
  else if type = typeIDAT then .chunkIdat payload
  else if type = typeIEND then .chunkIend payload
  else .chunkOther type payload

/-- The reconstruct operation of a filter type (R103). -/
def reconOf : FilterType → Instr
  | .none => .reconNone
  | .sub => .reconSub
  | .up => .reconUp
  | .avg => .reconAvg
  | .paeth => .reconPaeth

/-- The apply operation of a filter type (R103). -/
def filtOf : FilterType → Instr
  | .none => .filtNone
  | .sub => .filtSub
  | .up => .filtUp
  | .avg => .filtAvg
  | .paeth => .filtPaeth

/-- The opcode map of a row on decode (R103, R105): total on the byte. -/
def decodeRow (ft : Byte) : Instr :=
  match FilterType.ofCode ft with
  | some t => reconOf t
  | Option.none => .rowIllegal ft

/-- The frame of one chunk: type, payload and the bytes after it (R92, R104, R142). -/
def splitChunk (bs : List Byte) : Except DecodeError (Word × List Byte × List Byte) :=
  match bs with
  | l0 :: l1 :: l2 :: l3 :: afterLength =>
    match afterLength with
    | t0 :: t1 :: t2 :: t3 :: afterType =>
      let n := (be32 l0 l1 l2 l3).toNat
      if afterType.length < n then .error .truncPayload
      else
        match afterType.drop n with
        | c0 :: c1 :: c2 :: c3 :: rest =>
          if crc32 (t0 :: t1 :: t2 :: t3 :: afterType.take n) = be32 c0 c1 c2 c3 then
            .ok (be32 t0 t1 t2 t3, afterType.take n, rest)
          else .error .crcMismatch
        | _ => .error .truncCrc
    | _ => .error .truncType
  | _ => .error .truncLength

/-- The decoder: the instruction at the head of `bs` in a format, and the bytes after it. -/
def decode (f : Format) (bs : List Byte) : Except DecodeError (Instr × List Byte) :=
  match f with
  | .cmd =>
    match bs with
    | code :: rest => .ok (decodeCmd code, rest)
    | [] => .error .noValue
  | .sigIn => if bs.take 8 = signature then .ok (.rdSig, bs.drop 8) else .error .notSignature
  | .sigOut => if bs.take 8 = signature then .ok (.wrSig, bs.drop 8) else .error .notSignature
  | .chunkIn =>
    match splitChunk bs with
    | .ok (type, payload, rest) => .ok (decodeChunk type payload, rest)
    | .error e => .error e
  | .chunkOut =>
    match splitChunk bs with
    | .ok (type, payload, rest) => .ok (.wrChunk type payload, rest)
    | .error e => .error e
  | .typeOut =>
    match bs with
    | t0 :: t1 :: t2 :: t3 :: rest =>
      if be32 t0 t1 t2 t3 = typeIHDR then .ok (.emitIhdr, rest)
      else if be32 t0 t1 t2 t3 = typeIDAT then .ok (.emitIdat, rest)
      else if be32 t0 t1 t2 t3 = typeIEND then .ok (.emitIend, rest)
      else .error .typeNotEmitted
    | _ => .error .truncType
  | .rowIn =>
    match bs with
    | ft :: rest => .ok (decodeRow ft, rest)
    | [] => .error .noValue
  | .rowOut =>
    match bs with
    | ft :: rest =>
      match FilterType.ofCode ft with
      | some t => .ok (filtOf t, rest)
      | Option.none => .error .filterNotEmitted
    | [] => .error .noValue
  | .reg =>
    match bs with
    | n :: rest =>
      if n = 11 then .ok (.pixWidth, rest)
      else if n = 12 then .ok (.pixHeight, rest)
      else .error .notImageSize
    | [] => .error .noValue
  | .internal => .error .noEncoding

/-- The format each operation is encoded in: that of its own rule, and of its row in the opcode table. `RD.CHUNK` frames a chunk
of any type, whose bits are those of the operation the type selects; it has none of its own (R111, R132). Log entry 30. -/
def Instr.format : Instr → Format
  | .decode => .cmd
  | .encode => .cmd
  | .pixGet => .cmd
  | .pixSet => .cmd
  | .cmdReserved _ => .cmd
  | .rdSig => .sigIn
  | .wrSig => .sigOut
  | .rdChunk => .internal
  | .chunkIhdr _ => .chunkIn
  | .chunkIdat _ => .chunkIn
  | .chunkIend _ => .chunkIn
  | .chunkOther _ _ => .chunkIn
  | .emitIhdr => .typeOut
  | .emitIdat => .typeOut
  | .emitIend => .typeOut
  | .wrChunk _ _ => .chunkOut
  | .reconNone => .rowIn
  | .reconSub => .rowIn
  | .reconUp => .rowIn
  | .reconAvg => .rowIn
  | .reconPaeth => .rowIn
  | .filtNone => .rowOut
  | .filtSub => .rowOut
  | .filtUp => .rowOut
  | .filtAvg => .rowOut
  | .filtPaeth => .rowOut
  | .rowIllegal _ => .rowIn
  | .crcInit => .internal
  | .crcUpdate _ => .internal
  | .crcFinal => .internal
  | .crcChunk _ _ => .internal
  | .zportInflate => .internal
  | .zportDeflate => .internal
  | .paeth _ _ _ => .internal
  | .be32 _ _ _ _ => .internal
  | .enc32 _ => .internal
  | .pixWidth => .reg
  | .pixHeight => .reg

/-- R111's operations, which "are not selected by any bit pattern: the sequencer and the other operations invoke them by name". -/
def Instr.byName : Instr → Bool
  | .decode => false
  | .encode => false
  | .pixGet => false
  | .pixSet => false
  | .cmdReserved _ => false
  | .rdSig => true
  | .wrSig => true
  | .rdChunk => true
  | .chunkIhdr _ => false
  | .chunkIdat _ => false
  | .chunkIend _ => false
  | .chunkOther _ _ => false
  | .emitIhdr => false
  | .emitIdat => false
  | .emitIend => false
  | .wrChunk _ _ => true
  | .reconNone => false
  | .reconSub => false
  | .reconUp => false
  | .reconAvg => false
  | .reconPaeth => false
  | .filtNone => false
  | .filtSub => false
  | .filtUp => false
  | .filtAvg => false
  | .filtPaeth => false
  | .rowIllegal _ => false
  | .crcInit => true
  | .crcUpdate _ => true
  | .crcFinal => true
  | .crcChunk _ _ => true
  | .zportInflate => true
  | .zportDeflate => true
  | .paeth _ _ _ => true
  | .be32 _ _ _ _ => true
  | .enc32 _ => true
  | .pixWidth => false
  | .pixHeight => false

/-- The formats whose bits select an operation (R93, R103, R109, R204). The signature and the frame that `WR.CHUNK` writes select
none: they are the bytes that `RD.SIG`, `WR.SIG` and `WR.CHUNK`, invoked by name (R111), read or write (R91, R92, R131, R151,
R152). Log entry 30. -/
def Format.selects : Format → Bool
  | .cmd => true
  | .sigIn => false
  | .sigOut => false
  | .chunkIn => true
  | .chunkOut => false
  | .typeOut => true
  | .rowIn => true
  | .rowOut => true
  | .reg => true
  | .internal => false

/-- The encoder: the bytes of a well-formed instruction in its format; `none` for an operation with no encoding (R111). -/
def encode : Instr → Option (List Byte)
  | .decode => some [0x01]
  | .encode => some [0x02]
  | .pixGet => some [0x03]
  | .pixSet => some [0x04]
  | .cmdReserved code => some [code]
  | .rdSig => some signature
  | .wrSig => some signature
  | .rdChunk => none
  | .chunkIhdr payload => some (chunkBytes typeIHDR payload)
  | .chunkIdat payload => some (chunkBytes typeIDAT payload)
  | .chunkIend payload => some (chunkBytes typeIEND payload)
  | .chunkOther type payload => some (chunkBytes type payload)
  | .emitIhdr => some (enc32 typeIHDR)
  | .emitIdat => some (enc32 typeIDAT)
  | .emitIend => some (enc32 typeIEND)
  | .wrChunk type payload => some (chunkBytes type payload)
  | .reconNone => some [0x00]
  | .reconSub => some [0x01]
  | .reconUp => some [0x02]
  | .reconAvg => some [0x03]
  | .reconPaeth => some [0x04]
  | .filtNone => some [0x00]
  | .filtSub => some [0x01]
  | .filtUp => some [0x02]
  | .filtAvg => some [0x03]
  | .filtPaeth => some [0x04]
  | .rowIllegal ft => some [ft]
  | .crcInit => none
  | .crcUpdate _ => none
  | .crcFinal => none
  | .crcChunk _ _ => none
  | .zportInflate => none
  | .zportDeflate => none
  | .paeth _ _ _ => none
  | .be32 _ _ _ _ => none
  | .enc32 _ => none
  | .pixWidth => some [11]
  | .pixHeight => some [12]

/-- The bytes of a table word as the block receives them, with the format they are read in: an 8-bit word is a value
written to `CMD`, a 32-bit word is the type of a chunk of the input stream (a big-endian word, in the frame of a chunk with
no payload), a 64-bit word is a signature. Log entry 19. -/
def tableBytes (nbits w : Nat) : Option (Format × List Byte) :=
  if nbits = 8 then some (.cmd, [BitVec.ofNat 8 w])
  else if nbits = 32 then some (.chunkIn, chunkBytes (BitVec.ofNat 32 w) [])
  else if nbits = 64 then
    some (.sigIn, enc32 (BitVec.ofNat 32 (w / 2 ^ 32)) ++ enc32 (BitVec.ofNat 32 w))
  else none

/-- The instruction the decoder reads from a table word, `none` where it refuses. -/
def decodeTableWord (nbits w : Nat) : Option Instr :=
  match tableBytes nbits w with
  | some (f, bs) =>
    match decode f bs with
    | .ok (i, _) => some i
    | .error _ => none
  | none => none

end Sys2Proof
end

