-- ==== Sys2Proof/Machine/State.lean ====
section
/-! DEFINITION. The state of one instance of the block, plain data (spec/10_state.md R20 to R39, spec/20_memory.md R60 to
R66), the host's moves as data, the reasons to stop, and the state after reset (R38). -/

namespace Sys2Proof.Machine

/-- The sequencer state, register `STATE` (R27): 13 states and no others (U2). -/
inductive SeqState where
  | start | readSignature | readIHDR | collectDataChunks | inflate | defilterRows
  | filterRows | deflate | emitIHDR | emitIDAT | emitIEND | done | failed
deriving DecidableEq, Repr

/-- Where inside a sequencer state the block stands: the pseudocode's own position, which no register holds (log entry 16).
`enter`: before the state's first action. `row`: at the head of the row loop. `bytes`: inside a row, its filter type known.
`header`: in `EmitIHDR`, the signature already written. -/
inductive Micro where
  | enter | row | bytes | header
deriving DecidableEq, Repr

/-- Chunk reader registers and its two flags (R22, R28). -/
structure Reader where
  /-- `POS` -/
  pos : Nat
  /-- `CHUNKOFF` -/
  chunkoff : Nat
  /-- `LEN` -/
  len : Word
  /-- `TYPE` -/
  type : Word
  /-- `CRCRX` -/
  crcrx : Word
  seenIhdr : Bool
  seenIend : Bool
deriving DecidableEq, Repr

/-- Header registers (R23). -/
structure Header where
  w : Word
  h : Word
  bitDepth : Byte
  colorType : Byte
  compression : Byte
  filterMethod : Byte
  interlace : Byte
deriving DecidableEq, Repr

/-- Filter engine registers (R24). -/
structure FilterPos where
  /-- `FT` -/
  ft : Byte
  /-- `Y` -/
  y : Word
  /-- `I`, a natural number in the model -/
  i : Nat
  /-- `FPOS` -/
  fpos : Nat
deriving DecidableEq, Repr

/-- Chunk writer registers (R25). -/
structure Writer where
  opos : Nat
  zpos : Nat
deriving DecidableEq, Repr

/-- The fields of `STATUS` (R30); bits 7:5 read as 0. -/
structure Status where
  busy : Bool
  done : Bool
  failed : Bool
  pixvalid : Bool
  oor : Bool
deriving DecidableEq, Repr

/-- The error report (R31). -/
structure ErrReport where
  /-- `ERRKIND` -/
  kind : Byte
  /-- `ERRCAUSE` -/
  cause : Byte
  /-- `ERR_TYPE` -/
  type : Word
  /-- `ERR_OFFSET` -/
  offset : Nat
  /-- `CRC_STORED` -/
  crcStored : Word
  /-- `CRC_COMPUTED` -/
  crcComputed : Word
deriving DecidableEq, Repr

/-- The configuration registers (R32). -/
structure HostCfg where
  fctl : Byte
  idatmax : Word
  level : Byte
deriving DecidableEq, Repr

/-- The image registers (R33). -/
structure ImageRegs where
  width : Word
  height : Word
  px : Word
  py : Word
  pr : Byte
  pg : Byte
  pb : Byte
deriving DecidableEq, Repr

/-- The host's stream ports: the input sequence `IN` (R61), the output sequence `OUT` (R62), and for each the offset, if
any, at which the host's port reports a failure (R237, log entry 3). -/
structure Ports where
  inp : List Byte
  inFail : Option Nat
  out : List Byte
  outFail : Option Nat
deriving DecidableEq, Repr

/-- A transient value an operation delivers: the result of an internal function, or what a register read gives the host
(log entry 15). -/
inductive OpValue where
  /-- No value: nothing has been delivered, or the host saw nothing (R81). -/
  | none
  | byte (b : Byte)
  | word (w : Word)
  | nat (n : Nat)
  | bytes (bs : List Byte)
deriving DecidableEq, Repr

/-- The registers the host can name: numbers 0 to 17 in order (R29 to R33), and `STATE`, which the spec gives the host to
read but no number (R27). -/
inductive Reg where
  | cmd | status | errkind | errcause | errType | errOffset | crcStored | crcComputed
  | fctl | idatmax | level | width | height | px | py | pr | pg | pb
  | state
deriving DecidableEq, Repr

/-- A write on the register port, each value of its register's width (R29, R32, R33). -/
inductive RegWrite where
  | cmd (v : Byte)
  | fctl (v : Byte)
  | idatmax (v : Word)
  | level (v : Byte)
  | width (v : Word)
  | height (v : Word)
  | px (v : Word)
  | py (v : Word)
  | pr (v : Byte)
  | pg (v : Byte)
  | pb (v : Byte)
  /-- A write to a register the host can only read. -/
  | readOnly (r : Reg)
deriving DecidableEq, Repr

/-- What the host can do to an instance, one move at a time (R264 to R273). -/
inductive HostMove where
  /-- The host makes no move: the block takes one step. -/
  | run
  /-- Write a register. -/
  | write (w : RegWrite)
  /-- Read a register. -/
  | read (r : Reg)
  /-- Give the input sequence, with the offset at which the port will fail, if any. -/
  | input (bs : List Byte) (failAt : Option Nat)
  /-- Give an empty output stream, with the offset at which the port will fail, if any. -/
  | output (failAt : Option Nat)
  /-- Hard reset (R260, R262). -/
  | reset
deriving DecidableEq, Repr

/-- Byte memory: (address, byte) pairs. An unlisted address holds no value (log entry 7). -/
abbrev Memory := List Host.Cell

end Sys2Proof.Machine

namespace Sys2Proof.Machine

/-- The state of one instance. The fields from `host` on are the model's own. -/
structure State where
  /-- `CRCACC` (R21) -/
  crcacc : Word
  rd : Reader
  hdr : Header
  fl : FilterPos
  wr : Writer
  /-- `STATE` (R27) -/
  st : SeqState
  status : Status
  err : ErrReport
  cfg : HostCfg
  img : ImageRegs
  /-- `PREV` (R34) -/
  prev : List Byte
  /-- `CUR` (R34) -/
  cur : List Byte
  /-- `ZBUF` (R35) -/
  zbuf : List Byte
  /-- `FBUF` (R35) -/
  fbuf : List Byte
  /-- `PIX`, the pixel memory (R66) -/
  pix : Memory
  ports : Ports
  /-- The moves the host will make, first one first; it says who moves next (log entry 2). -/
  host : List HostMove
  micro : Micro
  value : OpValue
  /-- Which unknown content the pixel memory and the line buffers have (log entries 6, 7). -/
  epoch : Nat
  /-- The counter of failed writes, at which their free value is taken (log entry 8). -/
  fresh : Nat
  /-- The build's parameters; no step changes them (log entry 10). -/
  build : Build
deriving DecidableEq, Repr

/-- Why the machine stops with a fault. Every one is safe: the model stops where the spec gives no address or no end, in
states that no run from reset reaches. -/
inductive Fault where
  /-- Raised by RECON.* and by the row head of DefilterRows: the byte read lies outside `F` (R60, R64). Safe. -/
  | fStreamAddress
  /-- Raised by RECON.* and FILT.*: `I` lies outside the line buffers, "Index range 0 to 3*HDR_W - 1 each" (R65). Safe. -/
  | lineBufferAddress
  /-- Raised by CHUNK.IHDR: `LEN` is 13 and the payload operand does not have 13 bytes, so a field lies outside it (R137).
  Safe. -/
  | payloadAddress
  /-- Raised by EMIT.IDAT: `IDATMAX` is 0, which no write can install (R32), and the loop of R154 does not move. Safe. -/
  | idatNoProgress
deriving DecidableEq, Repr

/-- Why the machine refuses. -/
inductive Refusal where
  /-- Raised by an arm of `exec` with no meaning yet. -/
  | notModelled (mnemonic : String)
  /-- Raised by the host move `input` while a command runs: "a run in which `IN` changes has no meaning in this spec"
  (R269, U11). Safe. -/
  | inputChangedWhileBusy
  /-- Raised by the host move `output` while a command runs (R62, R265: `OUT` is given before the command). Safe. -/
  | outputChangedWhileBusy
  /-- Raised by WR.CHUNK with a payload of 2^32 bytes or more, which R152 excludes from its operands. Safe. -/
  | payloadTooLong
deriving DecidableEq, Repr

/-- The state after reset (R38). The working registers hold the build's 0 (log entry 5), the line buffers and the pixel
memory hold nothing written (log entries 6, 7), the ports and the host's moves are empty. -/
def State.reset : State where
  crcacc := 0xFFFFFFFF
  rd := { pos := 0, chunkoff := 0, len := 0, type := 0, crcrx := 0, seenIhdr := false, seenIend := false }
  hdr := { w := 0, h := 0, bitDepth := 0, colorType := 0, compression := 0, filterMethod := 0, interlace := 0 }
  fl := { ft := 0, y := 0, i := 0, fpos := 0 }
  wr := { opos := 0, zpos := 0 }
  st := .start
  status := { busy := false, done := false, failed := false, pixvalid := false, oor := false }
  err := { kind := 0, cause := 0, type := 0, offset := 0, crcStored := 0, crcComputed := 0 }
  cfg := { fctl := 0, idatmax := 0xFFFFFFFF, level := 6 }
  img := { width := 0, height := 0, px := 0, py := 0, pr := 0, pg := 0, pb := 0 }
  prev := []
  cur := []
  zbuf := []
  fbuf := []
  pix := []
  ports := { inp := [], inFail := none, out := [], outFail := none }
  host := []
  micro := .enter
  value := .none
  epoch := 0
  fresh := 0
  build := Build.default

end Sys2Proof.Machine
end

