-- ==== Sys2Proof/Machine/Ops.lean ====
section
/-! DEFINITION. The named operations over memory, line buffers and streams; taking an exception (`raise`, R240) with the
table of kinds, causes and contexts (R231, R232), and beside it what a new command does to the report (R39). -/

namespace Sys2Proof.Machine

/-- What a meaning answers. -/
abbrev Result := Host.Outcome State Fault Refusal

/-- Go on from a next state; stops stay as they are. -/
def onNext (o : Result) (f : State → State) : Result :=
  match o with
  | .next s => .next (f s)
  | .fault r => .fault r
  | .refused r => .refused r

/-! ### Byte memory (PIX) -/

/-- The canonical form: addresses strictly rising. An unlisted address holds no value, so no entry repeats that. -/
abbrev Memory.wf (m : Memory) : Prop := m.Pairwise (fun c d => c.1 < d.1)

/-- The byte at an address, if one was written. -/
def Memory.read : Memory → Nat → Option Byte
  | [], _ => none
  | (k, v) :: m, a => if a = k then some v else Memory.read m a

/-- Write one byte, keeping the canonical form. -/
def Memory.write : Memory → Nat → Byte → Memory
  | [], a, b => [(a, b)]
  | (k, v) :: m, a, b =>
    if a < k then (a, b) :: (k, v) :: m
    else if a = k then (a, b) :: m
    else (k, v) :: Memory.write m a b

/-- `MemWrite` of a sequence at rising addresses (R11). -/
def Memory.writeBytes : Memory → Nat → List Byte → Memory
  | m, _, [] => m
  | m, a, b :: bs => Memory.writeBytes (Memory.write m a b) (a + 1) bs

/-- The byte of `PIX` at an address: what was written last, else the memory's unknown content (log entry 7). -/
def State.pixByte (s : State) (a : Nat) : Byte := (s.pix.read a).getD (Config.freePixel s.epoch a)

/-- `MemRead(PIX, a, n)` (R11). -/
def State.pixBytes (s : State) (a n : Nat) : List Byte := (List.range n).map fun j => s.pixByte (a + j)

/-- Every pixel's content becomes "no value" (R206, R263): nothing is listed, and the unknown content is a new one. -/
def State.dropPixels (s : State) : State := { s with pix := [], epoch := s.epoch + 1 }

/-! ### Line buffers (LB) -/

/-- Cell `k` of a line buffer, its unknown content `free k` if nothing wrote it. -/
def lineRead (free : Nat → Byte) (l : List Byte) (k : Nat) : Byte := (l[k]?).getD (free k)

/-- Write cell `k` of a line buffer; cells below it that nothing wrote keep their unknown content. -/
def lineWrite (free : Nat → Byte) (l : List Byte) (k : Nat) (v : Byte) : List Byte :=
  if k < l.length then l.set k v
  else l ++ (List.range (k - l.length)).map (fun j => free (l.length + j)) ++ [v]

/-- Cells `0 .. n-1` of a line buffer. -/
def lineCells (free : Nat → Byte) (l : List Byte) (n : Nat) : List Byte := (List.range n).map (lineRead free l)

/-- `CUR[k]` (R34). -/
def State.curAt (s : State) (k : Nat) : Byte := lineRead (Config.freeCur s.epoch) s.cur k

/-- `PREV[k]` (R34). -/
def State.prevAt (s : State) (k : Nat) : Byte := lineRead (Config.freePrev s.epoch) s.prev k

/-- `CUR[k] <- v` (R34). -/
def State.setCur (s : State) (k : Nat) (v : Byte) : State :=
  { s with cur := lineWrite (Config.freeCur s.epoch) s.cur k v }

/-- `CUR[0 .. n)`. -/
def State.curCells (s : State) (n : Nat) : List Byte := lineCells (Config.freeCur s.epoch) s.cur n

/-- `PREV[0 .. n)`. -/
def State.prevCells (s : State) (n : Nat) : List Byte := lineCells (Config.freePrev s.epoch) s.prev n

/-- `PREV[i] <- 0` for `i < n` (R179, R194): the virtual zero row. -/
def State.zeroPrev (s : State) (n : Nat) : State := { s with prev := List.replicate n 0 ++ s.prev.drop n }

/-- `PREV[i] <- CUR[i]` for `i < n` (R180, R195). -/
def State.copyRow (s : State) (n : Nat) : State := { s with prev := s.curCells n ++ s.prev.drop n }

/-- The bytes of a row, `3*HDR_W` (R34). -/
def State.rowBytes (s : State) : Nat := Config.bpp * s.hdr.w.toNat

/-! ### Streams -/

/-- The port reports a failure on an access to `n` bytes at offset `p` (R237, log entry 3). -/
def portFails (failAt : Option Nat) (p n : Nat) : Bool :=
  match failAt with
  | none => false
  | some k => decide (p ≤ k ∧ k < p + n)

/-- `StreamAvail(IN, p)` (R11, R61). -/
def State.inAvail (s : State) (p : Nat) : Nat := s.ports.inp.length - p

/-- `MemRead(IN, p, n)`; `none` where the host's port fails (R237). -/
def State.inRead (s : State) (p n : Nat) : Option (List Byte) :=
  if portFails s.ports.inFail p n then none else some ((s.ports.inp.drop p).take n)

/-! ### Taking an exception -/

/-- The kinds of R231 with their codes. `OutOfRange` (6) never enters `ERRKIND` (R239). -/
inductive ErrKind where
  | io | format | checksum | unsupported | compression
deriving DecidableEq, Repr

/-- `ERRKIND` (R231). -/
def ErrKind.code : ErrKind → Byte
  | .io => 1
  | .format => 2
  | .checksum => 3
  | .unsupported => 4
  | .compression => 5

/-- The causes of R232, one constructor per row. -/
inductive Cause where
  | badSignature | truncLength | truncType | truncPayload | truncCrc | lengthOverMax | firstNotIhdr | ihdrLength
  | zeroDimension | dupIhdr | iendLength | fstreamLength | badFilterType
  | crcMismatch
  | bitDepth | colorType | compression | filterMethod | interlace | dimensionOverMax
  | inflateFailed | deflateFailed
  | readFailed | writeFailed
deriving DecidableEq, Repr

/-- Column "kind" of R232. -/
def Cause.kind : Cause → ErrKind
  | .badSignature => .format
  | .truncLength => .format
  | .truncType => .format
  | .truncPayload => .format
  | .truncCrc => .format
  | .lengthOverMax => .format
  | .firstNotIhdr => .format
  | .ihdrLength => .format
  | .zeroDimension => .format
  | .dupIhdr => .format
  | .iendLength => .format
  | .fstreamLength => .format
  | .badFilterType => .format
  | .crcMismatch => .checksum
  | .bitDepth => .unsupported
  | .colorType => .unsupported
  | .compression => .unsupported
  | .filterMethod => .unsupported
  | .interlace => .unsupported
  | .dimensionOverMax => .unsupported
  | .inflateFailed => .compression
  | .deflateFailed => .compression
  | .readFailed => .io
  | .writeFailed => .io

/-- Column "ERRCAUSE" of R232, numbered inside each kind. -/
def Cause.code : Cause → Byte
  | .badSignature => 1
  | .truncLength => 2
  | .truncType => 3
  | .truncPayload => 4
  | .truncCrc => 5
  | .lengthOverMax => 6
  | .firstNotIhdr => 7
  | .ihdrLength => 8
  | .zeroDimension => 9
  | .dupIhdr => 10
  | .iendLength => 11
  | .fstreamLength => 12
  | .badFilterType => 13
  | .crcMismatch => 1
  | .bitDepth => 1
  | .colorType => 2
  | .compression => 3
  | .filterMethod => 4
  | .interlace => 5
  | .dimensionOverMax => 6
  | .inflateFailed => 1
  | .deflateFailed => 2
  | .readFailed => 1
  | .writeFailed => 2

/-- Column "ERR_TYPE" of R232. -/
def Cause.errType (c : Cause) (s : State) : Word :=
  match c with
  | .badSignature => 0
  | .truncLength => 0
  | .truncType => 0
  | .lengthOverMax => 0
  | .truncPayload => s.rd.type
  | .truncCrc => s.rd.type
  | .firstNotIhdr => s.rd.type
  | .ihdrLength => s.rd.type
  | .zeroDimension => s.rd.type
  | .dupIhdr => s.rd.type
  | .iendLength => s.rd.type
  | .crcMismatch => s.rd.type
  | .bitDepth => s.rd.type
  | .colorType => s.rd.type
  | .compression => s.rd.type
  | .filterMethod => s.rd.type
  | .interlace => s.rd.type
  | .dimensionOverMax => s.rd.type
  | .readFailed => s.rd.type
  | .writeFailed => s.rd.type
  | .fstreamLength => typeIDAT
  | .badFilterType => typeIDAT
  | .inflateFailed => typeIDAT
  | .deflateFailed => typeIDAT

/-- Column "ERR_OFFSET" of R232. -/
def Cause.errOffset (c : Cause) (s : State) : Nat :=
  match c with
  | .badSignature => 0
  | .truncLength => s.rd.chunkoff
  | .truncType => s.rd.chunkoff
  | .truncPayload => s.rd.chunkoff
  | .truncCrc => s.rd.chunkoff
  | .lengthOverMax => s.rd.chunkoff
  | .firstNotIhdr => s.rd.chunkoff
  | .ihdrLength => s.rd.chunkoff
  | .zeroDimension => s.rd.chunkoff
  | .dupIhdr => s.rd.chunkoff
  | .iendLength => s.rd.chunkoff
  | .crcMismatch => s.rd.chunkoff
  | .bitDepth => s.rd.chunkoff
  | .colorType => s.rd.chunkoff
  | .compression => s.rd.chunkoff
  | .filterMethod => s.rd.chunkoff
  | .interlace => s.rd.chunkoff
  | .dimensionOverMax => s.rd.chunkoff
  | .fstreamLength => s.fbuf.length
  | .badFilterType => s.fl.fpos
  | .inflateFailed => 0
  | .deflateFailed => 0
  | .readFailed => s.rd.pos
  | .writeFailed => s.wr.opos

/-- The report of a cause raised in a state (R31, R232). The computed checksum is the one `CRCACC` still holds, since
`CRC.FINAL` does not change it (R123). -/
def Cause.report (c : Cause) (s : State) : ErrReport where
  kind := c.kind.code
  cause := c.code
  type := c.errType s
  offset := c.errOffset s
  crcStored := if c.kind = .checksum then s.rd.crcrx else 0
  crcComputed := if c.kind = .checksum then crcComplement s.crcacc else 0

/-- `raise Kind(cause, context)` as one step (R240). -/
def raise (c : Cause) (s : State) : State :=
  { s with
    err := c.report s
    st := .failed
    micro := .enter
    status := { s.status with busy := false, failed := true }
    zbuf := []
    fbuf := [] }

/-- The report of no error, which the acceptance of a command installs (R39, R244). There is no return from `Failed` but
the next command (R242). -/
def noReport : ErrReport := { kind := 0, cause := 0, type := 0, offset := 0, crcStored := 0, crcComputed := 0 }

/-- An operation that may raise: it goes on, or the command is over. -/
inductive Flow where
  | ok (s : State)
  | raised (s : State)

/-- Both ends of an operation that may raise are next states. -/
def Flow.result : Flow → Result
  | .ok s => .next s
  | .raised s => .next s

/-- The next part of an operation, unless it raised. -/
def Flow.andThen (r : Flow) (f : State → Flow) : Flow :=
  match r with
  | .ok s => f s
  | .raised s => .raised s

/-- The report of an error raised before the command has a chunk type says type 0 (R31, log entry 9). -/
def Flow.withoutType : Flow → Flow
  | .ok s => .ok s
  | .raised s => .raised { s with err := { s.err with type := 0 } }

/-- `Emit(OUT, v)` (R62): append all of `v`, or raise IOError, in which case an unknown part of `v` has arrived (R157, U5,
log entry 8). -/
def emitOut (v : List Byte) (s : State) : Flow :=
  if portFails s.ports.outFail s.wr.opos v.length then
    .raised (raise .writeFailed
      { s with
        ports := { s.ports with out := s.ports.out ++ v.take (Config.freeWritten s.fresh) }
        fresh := s.fresh + 1 })
  else
    .ok { s with
      ports := { s.ports with out := s.ports.out ++ v }
      wr := { s.wr with opos := s.wr.opos + v.length } }

/-- Enter a sequencer state at its first action. -/
def State.goto (s : State) (st : SeqState) : State := { s with st := st, micro := .enter }

end Sys2Proof.Machine
end

