-- ==== Sys2Proof/Machine/Operands.lean ====
section
/-! DEFINITION. Operand forms: the three neighbours (R171), the five predictors (R173 to R177, R181), the pixel address and
its bounds (R66, R203), the header fields of a payload and their tests (R94, R137), the encoder's filter choice (R192,
R193). -/

namespace Sys2Proof.Machine

/-- `left`: the value at `i - 3`, 0 for `i < 3` (R171). -/
def leftOf (row : Nat → Byte) (i : Nat) : Byte := if Config.bpp ≤ i then row (i - Config.bpp) else 0

/-- `a` (R171). -/
def State.left (s : State) (i : Nat) : Byte := leftOf s.curAt i
/-- `b` (R171). -/
def State.up (s : State) (i : Nat) : Byte := s.prevAt i
/-- `c` (R171). -/
def State.upLeft (s : State) (i : Nat) : Byte := leftOf s.prevAt i

/-- A predictor of left, up, upLeft. -/
abbrev Predictor := Byte → Byte → Byte → Byte

/-- `floor((a + b) / 2)` on the exact 9-bit sum (R176, D27). -/
def average (a b : Byte) : Byte := BitVec.ofNat 8 ((a.toNat + b.toNat) / 2)

/-- `PAETH(a, b, c)` on exact signed values (R181). -/
def paeth (a b c : Byte) : Byte :=
  let p : Int := (a.toNat : Int) + b.toNat - c.toNat
  let pa := (p - a.toNat).natAbs
  let pb := (p - b.toNat).natAbs
  let pc := (p - c.toNat).natAbs
  if pa ≤ pb ∧ pa ≤ pc then a
  else if pb ≤ pc then b
  else c

/-- The predictor of each filter type (R173 to R177, R186 to R190). -/
def predictor : FilterType → Predictor
  | .none => fun _ _ _ => 0
  | .sub => fun a _ _ => a
  | .up => fun _ b _ => b
  | .avg => fun a b _ => average a b
  | .paeth => paeth

/-- The byte a filter type makes of the original byte `i` of a row (R186 to R190): `orig - pred`, modulo 256. -/
def filteredByte (t : FilterType) (row above : Nat → Byte) (i : Nat) : Byte :=
  row i - predictor t (leftOf row i) (above i) (leftOf above i)

/-- A byte's absolute value, read as a signed 8-bit number (R193). -/
def absByte (v : Byte) : Nat := if v.toNat ≤ 127 then v.toNat else 256 - v.toNat

/-- Cell `i` of a row given as a list; the rules read none outside it. -/
def cellOf (l : List Byte) (i : Nat) : Byte := l.getD i 0

/-- `cost(t)` of a row over the row above (R193). -/
def cost (t : FilterType) (row above : List Byte) : Nat :=
  ((List.range row.length).map fun i => absByte (filteredByte t (cellOf row) (cellOf above) i)).sum

/-- The better of two filter types; the first of two equal costs stays (R192). -/
def cheaper (row above : List Byte) (best t : FilterType) : FilterType :=
  if cost t row above < cost best row above then t else best

/-- The adaptive choice: the least cost, among equal costs the smallest type (R192). -/
def adaptive (row above : List Byte) : FilterType :=
  [FilterType.sub, .up, .avg, .paeth].foldl (cheaper row above) .none

/-- `FSEL` as the block has it, set by `FCTL` (R192); a value no write can install gives any choice (log entry 11). -/
def fsel (fctl : Byte) (row above : List Byte) : FilterType :=
  match FilterType.ofCode fctl with
  | some t => t
  | Option.none => if fctl = 5 then adaptive row above else Config.freeFsel fctl row above

/-- The bounds test `x >= width or y >= height` (R203), before any address is formed. -/
def State.outOfRange (s : State) : Bool :=
  decide (s.img.px.toNat ≥ s.img.width.toNat ∨ s.img.py.toNat ≥ s.img.height.toNat)

/-- `index = (y*width + x)*3`, over the integers (R66). -/
def State.pixIndex (s : State) : Nat := (s.img.py.toNat * s.img.width.toNat + s.img.px.toNat) * Config.bpp

/-- The bytes of the image `WIDTH` by `HEIGHT` (R66). -/
def State.imageBytes (s : State) : Nat := s.img.width.toNat * s.img.height.toNat * Config.bpp

/-- The header fields of an IHDR payload (R94, R137); `none` if it has not 13 bytes. -/
def headerOf : List Byte → Option Header
  | [w0, w1, w2, w3, h0, h1, h2, h3, bd, ct, cm, fm, il] =>
    some { w := be32 w0 w1 w2 w3, h := be32 h0 h1 h2 h3, bitDepth := bd, colorType := ct, compression := cm,
           filterMethod := fm, interlace := il }
  | _ => none

/-- The tests of `CHUNK.IHDR` on the header registers, in the rule's order (R137, R236). -/
def headerDefect (b : Build) (h : Header) : Option Cause :=
  if h.w = 0 ∨ h.h = 0 then some .zeroDimension
  else if h.bitDepth ≠ 8 then some .bitDepth
  else if h.colorType ≠ 2 then some .colorType
  else if h.compression ≠ 0 then some .compression
  else if h.filterMethod ≠ 0 then some .filterMethod
  else if h.interlace ≠ 0 then some .interlace
  else if h.w.toNat > b.maxDim.toNat ∨ h.h.toNat > b.maxDim.toNat then some .dimensionOverMax
  else none

/-- The payload of the IHDR chunk the writer emits (R153). -/
def ihdrPayload (w h : Word) : List Byte := enc32 w ++ enc32 h ++ [0x08, 0x02, 0x00, 0x00, 0x00]

end Sys2Proof.Machine
end

