-- ==== Sys2Proof/Machine/Flags.lean ====
section
/-! DEFINITION. The flags: `STATUS` as the host reads it (R30), the code of `STATE` (R27), when `PIXVALID` becomes 1 (R206,
R207), and the end of a command (R221, R223). The filter and CRC engines set no condition codes (R28). -/

namespace Sys2Proof.Machine

/-- One bit of a register's value. -/
def bitAt (b : Bool) (n : Nat) : Byte := if b then BitVec.ofNat 8 (2 ^ n) else 0

/-- `STATUS` (R30): bits 4 to 0 are `OOR`, `PIXVALID`, `FAILED`, `DONE`, `BUSY`; bits 7:5 are 0. -/
def Status.byte (t : Status) : Byte :=
  bitAt t.busy 0 ||| bitAt t.done 1 ||| bitAt t.failed 2 ||| bitAt t.pixvalid 3 ||| bitAt t.oor 4

/-- The codes of `STATE` (R27). -/
def SeqState.code : SeqState → Byte
  | .start => 0
  | .readSignature => 1
  | .readIHDR => 2
  | .collectDataChunks => 3
  | .inflate => 4
  | .defilterRows => 5
  | .filterRows => 6
  | .deflate => 7
  | .emitIHDR => 8
  | .emitIDAT => 9
  | .emitIEND => 10
  | .done => 11
  | .failed => 12

/-- `STATE` is 1 to 10: a command runs (R30). -/
def SeqState.running (t : SeqState) : Bool := decide (1 ≤ t.code.toNat ∧ t.code.toNat ≤ 10)

/-- The states of DECODE (R215). -/
def SeqState.decoding (t : SeqState) : Bool := decide (1 ≤ t.code.toNat ∧ t.code.toNat ≤ 5)

/-- The states of ENCODE (R223). -/
def SeqState.encoding (t : SeqState) : Bool := decide (6 ≤ t.code.toNat ∧ t.code.toNat ≤ 10)

/-- Every one of the `WIDTH*HEIGHT` pixels has been written since the content was dropped, and the size is one a valid image
may have (R206, R207, log entry 21). -/
def State.imageComplete (s : State) : Bool :=
  decide (1 ≤ s.img.width.toNat ∧ 1 ≤ s.img.height.toNat ∧
    s.img.width.toNat ≤ s.build.maxDim.toNat ∧ s.img.height.toNat ≤ s.build.maxDim.toNat ∧
    (s.pix.filter fun c => decide (c.1 < s.imageBytes)).length = s.imageBytes)

/-- `PIXVALID` after a `PIX.SET`: it stays 1, or becomes 1 when the image is complete (R206). -/
def State.updatePixvalid (s : State) : State :=
  { s with status := { s.status with pixvalid := s.status.pixvalid || s.imageComplete } }

/-- `STATUS.OOR <- b` (R203). -/
def State.setOor (s : State) (b : Bool) : State := { s with status := { s.status with oor := b } }

/-- Entry to `Done` (R28, R221, R223): not busy, done, the stream buffers empty. -/
def State.finish (s : State) : State :=
  { s with
    st := .done
    micro := .enter
    status := { s.status with busy := false, done := true }
    zbuf := []
    fbuf := [] }

/-- The commit of a successful DECODE (R221). -/
def State.commit (s : State) : State :=
  { s.finish with
    img := { s.img with width := s.hdr.w, height := s.hdr.h }
    status := { s.status with busy := false, done := true, pixvalid := true } }

end Sys2Proof.Machine
end

