-- ==== Sys2Proof/Machine/Crc.lean ====
section
/-! DEFINITION. The CRC-32 engine (spec/40_crc32.md): `CRC.INIT`, `CRC.UPDATE`, `CRC.FINAL`, `CRC.CHUNK`. -/

namespace Sys2Proof.Machine

/-- `CRC.CHUNK(type, payload)` inside another operation: `CRCACC` is left as the last `CRC.UPDATE` made it (R124). -/
def crcOver (type : Word) (payload : List Byte) (s : State) : State :=
  { s with crcacc := crcBytes crcInitial (enc32 type ++ payload) }

/-- R121. -/
def execCrcInit (s : State) : Result := .next { s with crcacc := crcInitial }

/-- R122. -/
def execCrcUpdate (b : Byte) (s : State) : Result := .next { s with crcacc := crcByte s.crcacc b }

/-- R123: the result is delivered, `CRCACC` is not changed. -/
def execCrcFinal (s : State) : Result := .next { s with value := .word (crcComplement s.crcacc) }

/-- R124. -/
def execCrcChunk (type : Word) (payload : List Byte) (s : State) : Result :=
  .next { crcOver type payload s with value := .word (crc32 (enc32 type ++ payload)) }

end Sys2Proof.Machine
end

