-- ==== Sys2Proof/Machine/ChunkReader.lean ====
section
/-! DEFINITION. The chunk reader (spec/41_chunk_reader.md): `RD.SIG`, `RD.CHUNK` and the four operations a chunk selects. -/

namespace Sys2Proof.Machine

/-- R131. -/
def execRdSig (s : State) : Result :=
  let s1 := { s with rd := { s.rd with chunkoff := 0, type := 0 } }
  if s1.inAvail 0 < 8 then .next (raise .badSignature s1)
  else
    match s1.inRead 0 8 with
    | none => .next (raise .readFailed s1)
    | some b =>
      if b = signature then .next { s1 with rd := { s1.rd with pos := 8 } }
      else .next (raise .badSignature s1)

/-- R137. -/
def execChunkIhdr (payload : List Byte) (s : State) : Result :=
  if s.rd.len ≠ 13 then .next (raise .ihdrLength s)
  else
    match headerOf payload with
    | none => .fault .payloadAddress
    | some h =>
      let s1 := { s with hdr := h }
      match headerDefect s1.build h with
      | some c => .next (raise c s1)
      | none => .next { s1 with rd := { s1.rd with seenIhdr := true } }

/-- R138. -/
def execChunkIdat (payload : List Byte) (s : State) : Result := .next { s with zbuf := s.zbuf ++ payload }

/-- R139: the test is on `LEN`; the payload has had its effect on the CRC only. -/
def execChunkIend (_payload : List Byte) (s : State) : Result :=
  if s.rd.len ≠ 0 then .next (raise .iendLength s)
  else .next { s with rd := { s.rd with seenIend := true } }

/-- R140: nothing. -/
def execChunkOther (_type : Word) (_payload : List Byte) (s : State) : Result := .next s

/-- What framing one chunk answers: an error was raised, or the payload is delivered. -/
inductive Framed where
  | raised (s : State)
  | ok (s : State) (payload : List Byte)

/-- The end of `RD.CHUNK`'s framing: the CRC field, the comparison, `POS` past the chunk (R132, R133). -/
def frameCrc (p : Nat) (payload : List Byte) (s : State) : Framed :=
  let n := s.rd.len.toNat
  if s.inAvail (p + 8 + n) < 4 then .raised (raise .truncCrc s)
  else
    match s.inRead (p + 8 + n) 4 with
    | none => .raised (raise .readFailed s)
    | some b =>
      let s1 := crcOver s.rd.type payload { s with rd := { s.rd with crcrx := be32Of b } }
      if crcComplement s1.crcacc ≠ s1.rd.crcrx then .raised (raise .crcMismatch s1)
      else .ok { s1 with rd := { s1.rd with pos := p + 12 + n } } payload

/-- The middle of the framing: the payload (R132). -/
def framePayload (p : Nat) (s : State) : Framed :=
  let n := s.rd.len.toNat
  if s.inAvail (p + 8) < n then .raised (raise .truncPayload s)
  else
    match s.inRead (p + 8) n with
    | none => .raised (raise .readFailed s)
    | some payload => frameCrc p payload s

/-- The middle of the framing: the type field (R132). -/
def frameType (p : Nat) (s : State) : Framed :=
  if s.inAvail (p + 4) < 4 then .raised (raise .truncType s)
  else
    match s.inRead (p + 4) 4 with
    | none => .raised (raise .readFailed s)
    | some t => framePayload p { s with rd := { s.rd with type := be32Of t } }

/-- `RD.CHUNK` up to its dispatch (R132). -/
def frameChunk (s : State) : Framed :=
  let p := s.rd.pos
  let s1 := { s with rd := { s.rd with chunkoff := p, len := 0, type := 0, crcrx := 0 } }
  if s1.inAvail p < 4 then .raised (raise .truncLength s1)
  else
    match s1.inRead p 4 with
    | none => .raised (raise .readFailed s1)
    | some b =>
      let s2 := { s1 with rd := { s1.rd with len := be32Of b } }
      if s2.rd.len.toNat > s2.build.maxLen.toNat then .raised (raise .lengthOverMax s2)
      else frameType p s2

/-- Dispatch on the type, after the CRC has passed; the order of the tests is part of the rule (R134, R135). -/
def dispatchChunk (payload : List Byte) (s : State) : Result :=
  if s.rd.seenIhdr = false then
    if s.rd.type ≠ typeIHDR then .next (raise .firstNotIhdr s)
    else execChunkIhdr payload s
  else if s.rd.type = typeIHDR then .next (raise .dupIhdr s)
  else if s.rd.type = typeIDAT then execChunkIdat payload s
  else if s.rd.type = typeIEND then execChunkIend payload s
  else execChunkOther s.rd.type payload s

/-- R132. -/
def execRdChunk (s : State) : Result :=
  match frameChunk s with
  | .raised s' => .next s'
  | .ok s' payload => dispatchChunk payload s'

end Sys2Proof.Machine
end

