-- ==== Sys2Proof/Machine/ChunkWriter.lean ====
section
/-! DEFINITION. The chunk writer (spec/42_chunk_writer.md): `WR.SIG`, `WR.CHUNK`, `EMIT.IHDR`, `EMIT.IDAT`, `EMIT.IEND`. -/

namespace Sys2Proof.Machine

/-- R151: the assertion `OPOS = 0` is no check of the hardware (R11). No chunk type is at hand yet (R31, log entry 9). -/
def execWrSig (s : State) : Result := (emitOut signature s).withoutType.result

/-- `WR.CHUNK(type, payload)` for a payload whose length fits the field (R152). -/
def writeChunk (type : Word) (payload : List Byte) (s : State) : Flow :=
  let s1 := crcOver type payload
    { s with rd := { s.rd with len := BitVec.ofNat 32 payload.length, type := type } }
  emitOut (enc32 s1.rd.len ++ enc32 type ++ payload ++ enc32 (crcComplement s1.crcacc)) s1

/-- R152. -/
def execWrChunk (type : Word) (payload : List Byte) (s : State) : Result :=
  if payload.length < 2 ^ 32 then (writeChunk type payload s).result else .refused .payloadTooLong

/-- R153. -/
def execEmitIhdr (s : State) : Result :=
  let h : Header := { w := s.img.width, h := s.img.height, bitDepth := 8, colorType := 2, compression := 0,
                      filterMethod := 0, interlace := 0 }
  (writeChunk typeIHDR (ihdrPayload h.w h.h) { s with hdr := h }).result

/-- The loop of R154, at most `fuel` chunks. Each turn emits at least one byte of `ZBUF`, so `|ZBUF|` is fuel enough. -/
def emitIdatLoop : Nat → State → Flow
  | 0, s => .ok s
  | fuel + 1, s =>
    if s.wr.zpos < s.zbuf.length then
      let n := min s.cfg.idatmax.toNat (s.zbuf.length - s.wr.zpos)
      (writeChunk typeIDAT ((s.zbuf.drop s.wr.zpos).take n) s).andThen fun s1 =>
        emitIdatLoop fuel { s1 with wr := { s1.wr with zpos := s1.wr.zpos + n } }
    else .ok s

/-- R154. -/
def execEmitIdat (s : State) : Result :=
  let s1 := { s with wr := { s.wr with zpos := 0 } }
  if s1.zbuf = [] then (writeChunk typeIDAT [] s1).result
  else if s1.cfg.idatmax = 0 then .fault .idatNoProgress
  else (emitIdatLoop s1.zbuf.length s1).result

/-- R155. -/
def execEmitIend (s : State) : Result := (writeChunk typeIEND [] s).result

end Sys2Proof.Machine
end

