-- ==== Sys2Proof/Machine/Codec.lean ====
section
/-! DEFINITION. The host commands DECODE and ENCODE (spec/47_sequencer.md R210 to R213, R222) and the reserved codes (R110).
A command's meaning is its acceptance; the run it starts is made by the steps that follow (Machine/Sequencer.lean, log entry
25). -/

namespace Sys2Proof.Machine

/-- R210: acceptance (R212) and re-initialisation (R39, DECODE). The old image is dropped (D25). -/
def execDecode (s : State) : Result :=
  if s.status.busy then .next s
  else
    .next
      { s.dropPixels with
        status := { s.status with busy := true, done := false, failed := false, pixvalid := false }
        err := noReport
        img := { s.img with width := 0, height := 0 }
        rd := { s.rd with pos := 0, seenIhdr := false, seenIend := false }
        zbuf := []
        fbuf := []
        st := .readSignature
        micro := .enter }

/-- R211: acceptance (R212, R222) and re-initialisation (R39, ENCODE). `OUT` is empty when ENCODE starts (R62). -/
def execEncode (s : State) : Result :=
  if s.status.busy || !s.status.pixvalid then .next s
  else
    .next
      { s with
        status := { s.status with busy := true, done := false, failed := false }
        err := noReport
        wr := { opos := 0, zpos := 0 }
        fl := { s.fl with fpos := 0 }
        hdr := { s.hdr with w := s.img.width, h := s.img.height }
        zbuf := []
        fbuf := []
        ports := { s.ports with out := [] }
        st := .filterRows
        micro := .enter }

/-- R110: refused, it changes no state and starts nothing. -/
def execCmdReserved (_code : Byte) (s : State) : Result := .next s

end Sys2Proof.Machine
end

