-- ==== Sys2Proof/Machine/Fields.lean ====
section
/-! DEFINITION. The functions the table lists as operations: `be32`, `enc32` (spec/30_encoding.md R100, R101). Their result
is the transient value they deliver. -/

namespace Sys2Proof.Machine

/-- R100. -/
def execBe32 (b0 b1 b2 b3 : Byte) (s : State) : Result := .next { s with value := .word (be32 b0 b1 b2 b3) }

/-- R101. -/
def execEnc32 (v : Word) (s : State) : Result := .next { s with value := .bytes (enc32 v) }

end Sys2Proof.Machine
end

