-- ==== Sys2Proof/Machine/Filt.lean ====
section
/-! DEFINITION. The filter engine, apply direction (spec/45_filter_apply.md): `FILT.*` and the parts of the row loop around
them (R194, R195). -/

namespace Sys2Proof.Machine

/-- Byte `I` of the row: emit `(orig - pred) mod 256` to `F`, then `I` moves on (R26, R194). -/
def filtByte (t : FilterType) (s : State) : Result :=
  if s.fl.i < s.rowBytes then
    .next { s with
      fbuf := s.fbuf ++ [filteredByte t s.curAt s.prevAt s.fl.i]
      fl := { s.fl with i := s.fl.i + 1 } }
  else .fault .lineBufferAddress

/-- R186. -/
def execFiltNone (s : State) : Result := filtByte .none s
/-- R187. -/
def execFiltSub (s : State) : Result := filtByte .sub s
/-- R188. -/
def execFiltUp (s : State) : Result := filtByte .up s
/-- R189. -/
def execFiltAvg (s : State) : Result := filtByte .avg s
/-- R190. -/
def execFiltPaeth (s : State) : Result := filtByte .paeth s

/-- The start of the row loop (R194). -/
def filterEnter (s : State) : State :=
  { s.zeroPrev s.rowBytes with
    fbuf := []
    fl := { s.fl with y := 0, fpos := 0 }
    micro := .row }

/-- The head of a row: the original row into `CUR`, the filter choice into `FT` and into `F` (R192, R194). With no row left
the state is `Deflate` (R223). -/
def filterRow (s : State) : State :=
  if s.fl.y.toNat < s.hdr.h.toNat then
    let n := s.rowBytes
    let s1 := { s with cur := s.pixBytes (s.fl.y.toNat * n) n ++ s.cur.drop n }
    let ft := (fsel s1.cfg.fctl (s1.curCells n) (s1.prevCells n)).code
    { s1 with
      fl := { s1.fl with ft := ft, i := 0 }
      fbuf := s1.fbuf ++ [ft]
      micro := .bytes }
  else s.goto .deflate

/-- The end of a row: to `PREV`, and on to the next row (R194, R195). -/
def filterEndRow (s : State) : State :=
  { s.copyRow s.rowBytes with
    fl := { s.fl with fpos := s.fl.fpos + 1 + s.rowBytes, y := s.fl.y + 1 }
    micro := .row }

end Sys2Proof.Machine
end

