-- ==== Sys2Proof/Machine/Pix.lean ====
section
/-! DEFINITION. The pixel memory's accessors (spec/46_image_buffer.md): `PIX.GET`, `PIX.SET`, `PIX.WIDTH`, `PIX.HEIGHT`. -/

namespace Sys2Proof.Machine

/-- R201. While a command runs the write to `CMD` is refused: no state changes (R205). -/
def execPixGet (s : State) : Result :=
  if s.status.busy then .next s
  else if s.outOfRange then .next (s.setOor true)
  else
    let a := s.pixIndex
    .next
      { s.setOor false with
        img := { s.img with pr := s.pixByte a, pg := s.pixByte (a + 1), pb := s.pixByte (a + 2) } }

/-- R202, and `PIXVALID` as R206 says. While a command runs the write to `CMD` is refused: no state changes (R205). -/
def execPixSet (s : State) : Result :=
  if s.status.busy then .next s
  else if s.outOfRange then .next (s.setOor true)
  else
    let s1 := { s.setOor false with pix := s.pix.writeBytes s.pixIndex [s.img.pr, s.img.pg, s.img.pb] }
    .next s1.updatePixvalid

/-- R204: the read of register 11. -/
def execPixWidth (s : State) : Result := .next { s with value := .word s.img.width }

/-- R204: the read of register 12. -/
def execPixHeight (s : State) : Result := .next { s with value := .word s.img.height }

end Sys2Proof.Machine
end

