-- ==== Sys2Proof/Machine/Recon.lean ====
section
/-! DEFINITION. The filter engine, reconstruct direction (spec/44_filter_reconstruct.md): `RECON.*`, `ROW.ILLEGAL`, `PAETH`,
and the parts of the row loop around them (R178 to R180). -/

namespace Sys2Proof.Machine

/-- Byte `I` of the row: `CUR[I] <- (filt + pred) mod 256`, then `I` moves on, as the last action (R26, R171, R172). -/
def reconByte (t : FilterType) (s : State) : Result :=
  if s.fl.i < s.rowBytes then
    match s.fbuf[s.fl.fpos + 1 + s.fl.i]? with
    | none => .fault .fStreamAddress
    | some filt =>
      let v := filt + predictor t (s.left s.fl.i) (s.up s.fl.i) (s.upLeft s.fl.i)
      .next { s.setCur s.fl.i v with fl := { s.fl with i := s.fl.i + 1 } }
  else .fault .lineBufferAddress

/-- R173. -/
def execReconNone (s : State) : Result := reconByte .none s
/-- R174. -/
def execReconSub (s : State) : Result := reconByte .sub s
/-- R175. -/
def execReconUp (s : State) : Result := reconByte .up s
/-- R176. -/
def execReconAvg (s : State) : Result := reconByte .avg s
/-- R177. -/
def execReconPaeth (s : State) : Result := reconByte .paeth s

/-- R182. -/
def execRowIllegal (_ft : Byte) (s : State) : Result := .next (raise .badFilterType s)

/-- R181. -/
def execPaeth (a b c : Byte) (s : State) : Result := .next { s with value := .byte (paeth a b c) }

/-- The first action of `DefilterRows`: the length check (R178), then the start of the row loop (R179). -/
def defilterEnter (s : State) : State :=
  if s.fbuf.length ≠ s.hdr.h.toNat * (1 + s.rowBytes) then raise .fstreamLength s
  else
    { s.zeroPrev s.rowBytes with
      fl := { s.fl with y := 0, fpos := 0 }
      micro := .row }

/-- The head of a row (R179): its filter-type byte into `FT`. With no row left the DECODE commits (R220, R221). -/
def defilterRow (s : State) : Result :=
  if s.fl.y.toNat < s.hdr.h.toNat then
    match s.fbuf[s.fl.fpos]? with
    | none => .fault .fStreamAddress
    | some ft => .next { s with fl := { s.fl with ft := ft, i := 0 }, micro := .bytes }
  else .next s.commit

/-- The end of a row: to the pixel memory at `Y * W3`, to `PREV`, and on to the next row (R179, R180). -/
def defilterEndRow (s : State) : State :=
  let s1 := { s with pix := s.pix.writeBytes (s.fl.y.toNat * s.rowBytes) (s.curCells s.rowBytes) }
  { s1.copyRow s1.rowBytes with
    fl := { s1.fl with fpos := s1.fl.fpos + 1 + s1.rowBytes, y := s1.fl.y + 1 }
    micro := .row }

end Sys2Proof.Machine
end

