-- ==== Sys2Proof/Machine/ZPort.lean ====
section
/-! DEFINITION. The port to the Compression Adapter (spec/43_compression_port.md): `ZPORT.INFLATE`, `ZPORT.DEFLATE`. The
adapter is the pair of uninterpreted functions of Config. -/

namespace Sys2Proof.Machine

/-- R161: the assertion `SEEN_IEND = 1` is no check of the hardware (R11). -/
def execZportInflate (s : State) : Result :=
  match Config.inflate s.zbuf with
  | none => .next (raise .inflateFailed s)
  | some r => .next { s with fbuf := r }

/-- R162. -/
def execZportDeflate (s : State) : Result :=
  match Config.deflate s.fbuf s.cfg.level with
  | none => .next (raise .deflateFailed s)
  | some r => .next { s with zbuf := r }

end Sys2Proof.Machine
end

