-- ==== Sys2Proof/Machine/Dispatch.lean ====
section
/-! DEFINITION. The dispatch: one arm per constructor of Instr, each one direct call of its meaning. -/

namespace Sys2Proof.Machine

def exec (i : Instr) (s : State) : Host.Outcome State Fault Refusal :=
  match i with
  | .decode => Sys2Proof.Machine.execDecode s
  | .encode => Sys2Proof.Machine.execEncode s
  | .pixGet => Sys2Proof.Machine.execPixGet s
  | .pixSet => Sys2Proof.Machine.execPixSet s
  | .cmdReserved code => Sys2Proof.Machine.execCmdReserved code s
  | .rdSig => Sys2Proof.Machine.execRdSig s
  | .wrSig => Sys2Proof.Machine.execWrSig s
  | .rdChunk => Sys2Proof.Machine.execRdChunk s
  | .chunkIhdr payload => Sys2Proof.Machine.execChunkIhdr payload s
  | .chunkIdat payload => Sys2Proof.Machine.execChunkIdat payload s
  | .chunkIend payload => Sys2Proof.Machine.execChunkIend payload s
  | .chunkOther type payload => Sys2Proof.Machine.execChunkOther type payload s
  | .emitIhdr => Sys2Proof.Machine.execEmitIhdr s
  | .emitIdat => Sys2Proof.Machine.execEmitIdat s
  | .emitIend => Sys2Proof.Machine.execEmitIend s
  | .wrChunk type payload => Sys2Proof.Machine.execWrChunk type payload s
  | .reconNone => Sys2Proof.Machine.execReconNone s
  | .reconSub => Sys2Proof.Machine.execReconSub s
  | .reconUp => Sys2Proof.Machine.execReconUp s
  | .reconAvg => Sys2Proof.Machine.execReconAvg s
  | .reconPaeth => Sys2Proof.Machine.execReconPaeth s
  | .filtNone => Sys2Proof.Machine.execFiltNone s
  | .filtSub => Sys2Proof.Machine.execFiltSub s
  | .filtUp => Sys2Proof.Machine.execFiltUp s
  | .filtAvg => Sys2Proof.Machine.execFiltAvg s
  | .filtPaeth => Sys2Proof.Machine.execFiltPaeth s
  | .rowIllegal ft => Sys2Proof.Machine.execRowIllegal ft s
  | .crcInit => Sys2Proof.Machine.execCrcInit s
  | .crcUpdate b => Sys2Proof.Machine.execCrcUpdate b s
  | .crcFinal => Sys2Proof.Machine.execCrcFinal s
  | .crcChunk type payload => Sys2Proof.Machine.execCrcChunk type payload s
  | .zportInflate => Sys2Proof.Machine.execZportInflate s
  | .zportDeflate => Sys2Proof.Machine.execZportDeflate s
  | .paeth a b c => Sys2Proof.Machine.execPaeth a b c s
  | .be32 b0 b1 b2 b3 => Sys2Proof.Machine.execBe32 b0 b1 b2 b3 s
  | .enc32 v => Sys2Proof.Machine.execEnc32 v s
  | .pixWidth => Sys2Proof.Machine.execPixWidth s
  | .pixHeight => Sys2Proof.Machine.execPixHeight s

end Sys2Proof.Machine
end

