-- ==== Sys2Proof/Machine/HostPort.lean ====
section
/-! DEFINITION. The register port but for `CMD` and the image size, and the other moves of the host (R29 to R33, R206, R262,
R265 to R273). -/

namespace Sys2Proof.Machine

/-- A host write of `WIDTH` or `HEIGHT`: the image-creation operation (R206). -/
def State.dropImage (s : State) : State :=
  { s.dropPixels with status := { s.status with pixvalid := false } }

/-- A write to a register other than `CMD`, at a time when no command runs (R32, R33, R206). -/
def writeIdle (w : RegWrite) (s : State) : State :=
  match w with
  | .cmd _ => s
  | .fctl v => if v.toNat ≤ 5 then { s with cfg := { s.cfg with fctl := v } } else s
  | .idatmax v => if v = 0 then s else { s with cfg := { s.cfg with idatmax := v } }
  | .level v => { s with cfg := { s.cfg with level := v } }
  | .width v => { s.dropImage with img := { s.img with width := v } }
  | .height v => { s.dropImage with img := { s.img with height := v } }
  | .px v => { s with img := { s.img with px := v } }
  | .py v => { s with img := { s.img with py := v } }
  | .pr v => { s with img := { s.img with pr := v } }
  | .pg v => { s with img := { s.img with pg := v } }
  | .pb v => { s with img := { s.img with pb := v } }
  | .readOnly _ => s

/-- A write to a register other than `CMD`: refused, with no effect, while a command runs (R32, R33, R205, U10). -/
def writeReg (w : RegWrite) (s : State) : State := if s.status.busy then s else writeIdle w s

/-- What a register holds, as a read gives it (R29 to R33, R27). -/
def readReg (r : Reg) (s : State) : OpValue :=
  match r with
  | .cmd => .byte 0
  | .status => .byte s.status.byte
  | .errkind => .byte s.err.kind
  | .errcause => .byte s.err.cause
  | .errType => .word s.err.type
  | .errOffset => .nat s.err.offset
  | .crcStored => .word s.err.crcStored
  | .crcComputed => .word s.err.crcComputed
  | .fctl => .byte s.cfg.fctl
  | .idatmax => .word s.cfg.idatmax
  | .level => .byte s.cfg.level
  | .width => .word s.img.width
  | .height => .word s.img.height
  | .px => .word s.img.px
  | .py => .word s.img.py
  | .pr => .byte s.img.pr
  | .pg => .byte s.img.pg
  | .pb => .byte s.img.pb
  | .state => .byte s.st.code

/-- The registers a read gives also while a command runs: `STATUS` and `STATE` (R81, R272), the image size ("host read
always", R33, R204, R270), and `CMD`, which holds nothing and reads as 0 (R29). Log entry 17. -/
def Reg.readableBusy : Reg → Bool
  | .cmd => true
  | .status => true
  | .errkind => false
  | .errcause => false
  | .errType => false
  | .errOffset => false
  | .crcStored => false
  | .crcComputed => false
  | .fctl => false
  | .idatmax => false
  | .level => false
  | .width => true
  | .height => true
  | .px => false
  | .py => false
  | .pr => false
  | .pg => false
  | .pb => false
  | .state => true

/-- What the host sees when it reads a register: while `BUSY = 1` no value of any other register (R81, R32, R272). No read has
a side effect (R76). -/
def seenReg (r : Reg) (s : State) : OpValue := if s.status.busy && !r.readableBusy then .none else readReg r s

/-- The number of a register on the port; `STATE` has none (R27, R29 to R33). -/
def Reg.number : Reg → Option Nat
  | .cmd => some 0
  | .status => some 1
  | .errkind => some 2
  | .errcause => some 3
  | .errType => some 4
  | .errOffset => some 5
  | .crcStored => some 6
  | .crcComputed => some 7
  | .fctl => some 8
  | .idatmax => some 9
  | .level => some 10
  | .width => some 11
  | .height => some 12
  | .px => some 13
  | .py => some 14
  | .pr => some 15
  | .pg => some 16
  | .pb => some 17
  | .state => none

/-- The host gives `IN` (R210, R264); while a command runs that has no meaning (R269, U11). -/
def giveInput (bs : List Byte) (failAt : Option Nat) (s : State) : Result :=
  if s.status.busy then .refused .inputChangedWhileBusy
  else .next { s with ports := { s.ports with inp := bs, inFail := failAt } }

/-- The host gives an empty `OUT` (R265). -/
def giveOutput (failAt : Option Nat) (s : State) : Result :=
  if s.status.busy then .refused .outputChangedWhileBusy
  else .next { s with ports := { s.ports with out := [], outFail := failAt } }

/-- Hard reset (R260, R262): the state of R38; the streams and the host's later moves are the host's, the build is fixed, and
the unknown contents are new ones (log entry 24). -/
def hardReset (s : State) : State :=
  { State.reset with ports := s.ports, host := s.host, epoch := s.epoch + 1, fresh := s.fresh, build := s.build }

end Sys2Proof.Machine
end

