-- ==== Sys2Proof/Machine/Sequencer.lean ====
section
/-! DEFINITION. The sequencer: which operation the block performs next (`fetch`), what follows an operation (`advance`), the
moves between operations, and the host's moves (spec/47_sequencer.md R212 to R223). Step.lean only calls it. -/

namespace Sys2Proof.Machine

/-- The operation the block performs next, if its next move is an operation of the opcode table. The state of the sequencer
says which format is read (R215 to R223); a row's operation is decoded from `FT` (R103). -/
def fetch (s : State) : Option Instr :=
  match s.st with
  | .start => none
  | .readSignature => some .rdSig
  | .readIHDR => some .rdChunk
  | .collectDataChunks => if s.rd.seenIend then none else some .rdChunk
  | .inflate => some .zportInflate
  | .defilterRows =>
    if s.micro = .bytes then
      match FilterType.ofCode s.fl.ft with
      | some t => if s.fl.i < s.rowBytes then some (reconOf t) else none
      | Option.none => some (.rowIllegal s.fl.ft)
    else none
  | .filterRows =>
    if s.micro = .bytes then
      match FilterType.ofCode s.fl.ft with
      | some t => if s.fl.i < s.rowBytes then some (filtOf t) else none
      | Option.none => none
    else none
  | .deflate => some .zportDeflate
  | .emitIHDR => if s.micro = .header then some .emitIhdr else some .wrSig
  | .emitIDAT => some .emitIdat
  | .emitIEND => some .emitIend
  | .done => none
  | .failed => none

/-- What the sequencer does after an operation, by its own state: the column "next state on success" of R215 and R223. An
operation that raised has left `STATE = Failed`, where nothing follows (R225, R240). -/
def advance (s : State) : State :=
  match s.st with
  | .start => s
  | .readSignature => s.goto .readIHDR
  | .readIHDR => s.goto .collectDataChunks
  | .collectDataChunks => if s.rd.seenIend then s.goto .inflate else s
  | .inflate => s.goto .defilterRows
  | .defilterRows => s
  | .filterRows => s
  | .deflate => s.goto .emitIHDR
  | .emitIHDR => if s.micro = .header then s.goto .emitIDAT else { s with micro := .header }
  | .emitIDAT => s.goto .emitIEND
  | .emitIEND => s.finish
  | .done => s
  | .failed => s

/-- The block's move when it is not an operation of the table: between rows (R178 to R180, R194, R195), at the exit of the
chunk loop (R218), or, with no command running, none at all (R215 "wait for a command", log entry 28). -/
def innerMove (s : State) : Result :=
  match s.st with
  | .collectDataChunks => .next (s.goto .inflate)
  | .defilterRows =>
    match s.micro with
    | .row => defilterRow s
    | .bytes => .next (defilterEndRow s)
    | .enter => .next (defilterEnter s)
    | .header => .next (defilterEnter s)
  | .filterRows =>
    match s.micro with
    | .row => .next (filterRow s)
    | .bytes => .next (filterEndRow s)
    | .enter => .next (filterEnter s)
    | .header => .next (filterEnter s)
  | _ => .next s

/-- One move of the block. -/
def blockMove (s : State) : Result :=
  match fetch s with
  | some i => onNext (exec i s) advance
  | none => innerMove s

/-- A write on the register port: to `CMD` it runs the command its value decodes to (R29, R109). -/
def hostWrite (w : RegWrite) (s : State) : Result :=
  match w with
  | .cmd v => exec (decodeCmd v) s
  | _ => .next (writeReg w s)

/-- A read on the register port: of registers 11 and 12 it is `PIX.WIDTH` and `PIX.HEIGHT` (R204), which can be read always
(R33); of the others it gives what the host sees of them (R81). -/
def hostRead (r : Reg) (s : State) : Result :=
  match r with
  | .width => exec .pixWidth s
  | .height => exec .pixHeight s
  | _ => .next { s with value := seenReg r s }

/-- One move of the host; `run` leaves the move to the block. -/
def hostMove (m : HostMove) (s : State) : Result :=
  match m with
  | .run => blockMove s
  | .write w => hostWrite w s
  | .read r => hostRead r s
  | .input bs failAt => giveInput bs failAt s
  | .output failAt => giveOutput failAt s
  | .reset => .next (hardReset s)

/-- One step: the host's first move if it has one, else the block's. -/
def oneStep (s : State) : Result :=
  match s.host with
  | [] => blockMove s
  | m :: rest => hostMove m { s with host := rest }

/-- `s` with the bytes of a table word where the next step reads them (log entry 20): a value of `CMD` as the host's next
move; a chunk at `IN[POS]`, with the sequencer where chunks are read; a signature at `IN[0]`, with the sequencer where it is
read. -/
def placeWord (s : State) (f : Format) (bs : List Byte) : State :=
  let before := (s.ports.inp ++ List.replicate (s.rd.pos - s.ports.inp.length) 0).take s.rd.pos
  match f with
  | .cmd => { s with host := .write (.cmd (bs.getD 0 0)) :: s.host }
  | .chunkIn =>
    let first := decide (bs.drop 4 |>.take 4 |> fun t => be32Of t = typeIHDR)
    { s with
      host := []
      status := { s.status with busy := true }
      st := if first then .readIHDR else .collectDataChunks
      micro := .enter
      rd := { s.rd with seenIhdr := !first, seenIend := false }
      ports := { s.ports with inp := before ++ bs, inFail := none } }
  | .sigIn =>
    { s with
      host := []
      status := { s.status with busy := true }
      st := .readSignature
      micro := .enter
      ports := { s.ports with inp := bs, inFail := none } }
  | _ => s

end Sys2Proof.Machine
end

