-- ==== Sys2Proof/Machine/Step.lean ====
section
/-! DEFINITION. The step function, and how the host places one table word where the next step reads it. -/

namespace Sys2Proof.Machine

/-- One step of the machine: one move of the host or of the block (Machine/Sequencer.lean). -/
def step (s : State) : Host.Outcome State Fault Refusal := oneStep s

/-- `s` with the table word stored where `step` reads its next instruction (log entry 20). -/
def State.withFetchWord (s : State) (nbits w : Nat) : State :=
  match tableBytes nbits w with
  | some (f, bs) => placeWord s f bs
  | none => s

end Sys2Proof.Machine
end

