-- ==== Sys2Proof/Machine/Functions.lean ====
section
/-! DEFINITION. The two commands as functions on values (spec/47_sequencer.md R226, R228), written apart from the machine.
The machine makes them step by step; that the two agree is stated in the obligations (R18). The adapter is an argument
(R160). A failure is the whole report: "one error kind with its context" (R18), the context of a cause being the row of R232.
The host's ports work (`io_ok`). -/

namespace Sys2Proof.Machine

/-- `fail Kind` of R226 with its context: the report of a cause without checksums (R31, R232). -/
def failure (c : Cause) (type : Word) (offset : Nat) : ErrReport :=
  { noReport with kind := c.kind.code, cause := c.code, type := type, offset := offset }

/-- `readChunk(IN, p)` (R226, R132, R133, R142): type, payload and the offset after the chunk. -/
def readChunk (b : Build) (inp : List Byte) (p : Nat) : Except ErrReport (Word × List Byte × Nat) :=
  let bs := inp.drop p
  let n := (be32Of (bs.take 4)).toNat
  let type := be32Of ((bs.drop 4).take 4)
  let stored := be32Of ((bs.drop (8 + n)).take 4)
  let computed := crc32 ((bs.drop 4).take (4 + n))
  if bs.length < 4 then .error (failure .truncLength 0 p)
  else if n > b.maxLen.toNat then .error (failure .lengthOverMax 0 p)
  else if bs.length < 8 then .error (failure .truncType 0 p)
  else if bs.length < 8 + n then .error (failure .truncPayload type p)
  else if bs.length < 12 + n then .error (failure .truncCrc type p)
  else if computed ≠ stored then
    .error { failure .crcMismatch type p with crcStored := stored, crcComputed := computed }
  else .ok (type, (bs.drop 8).take n, p + 12 + n)

/-- `parseIHDR` (R226, R137): width and height, from the payload of the chunk at offset `p`. -/
def parseIhdr (b : Build) (p : Nat) (payload : List Byte) : Except ErrReport (Word × Word) :=
  match headerOf payload with
  | none => .error (failure .ihdrLength typeIHDR p)
  | some h =>
    match headerDefect b h with
    | some c => .error (failure c typeIHDR p)
    | none => .ok (h.w, h.h)

/-- The chunk loop of R226 from offset `p` on: `z` followed by the concatenation of the IDAT payloads. `fuel` bounds the number
of chunks; no input has more chunks than bytes. -/
def collectChunks (b : Build) (inp : List Byte) : Nat → Nat → List Byte → Except ErrReport (List Byte)
  | 0, p, _ => .error (failure .truncLength 0 p)
  | fuel + 1, p, z =>
    match readChunk b inp p with
    | .error r => .error r
    | .ok (type, payload, next) =>
      if type = typeIHDR then .error (failure .dupIhdr type p)
      else if type = typeIDAT then collectChunks b inp fuel next (z ++ payload)
      else if type = typeIEND then (if payload.length ≠ 0 then .error (failure .iendLength type p) else .ok z)
      else collectChunks b inp fuel next z

/-- One reconstructed row (R171 to R177, R179): `acc` is the row so far. -/
def reconRow (t : FilterType) (above : Nat → Byte) : List Byte → List Byte → List Byte
  | acc, [] => acc
  | acc, filt :: rest =>
    let i := acc.length
    reconRow t above
      (acc ++ [filt + predictor t (leftOf (cellOf acc) i) (above i) (leftOf above i)]) rest

/-- `defilter` (R226, R179): `rows` rows of `n` bytes, under the row `above`; the first row's filter-type byte is at offset
`fpos` of the F stream. -/
def defilter (n : Nat) : Nat → Nat → List Byte → List Byte → Except ErrReport (List Byte)
  | 0, _, _, _ => .ok []
  | _ + 1, fpos, _, [] => .error (failure .fstreamLength typeIDAT fpos)
  | rows + 1, fpos, above, ft :: f =>
    match FilterType.ofCode ft with
    | Option.none => .error (failure .badFilterType typeIDAT fpos)
    | some t =>
      let row := reconRow t (cellOf above) [] (f.take n)
      match defilter n rows (fpos + 1 + n) row (f.drop n) with
      | .error r => .error r
      | .ok data => .ok (row ++ data)

/-- `inflate` as R160 types it. -/
abbrev Inflate := List Byte → Option (List Byte)

/-- `deflate` as R160 types it. -/
abbrev Deflate := List Byte → Byte → Option (List Byte)

/-- The end of `decode` (R226), from the header and the Z stream on. -/
def decodeImage (inflate : Inflate) (w h : Word) (z : List Byte) : Except ErrReport (Word × Word × List Byte) :=
  match inflate z with
  | none => .error (failure .inflateFailed typeIDAT 0)
  | some f =>
    let n := Config.bpp * w.toNat
    if f.length ≠ h.toNat * (1 + n) then .error (failure .fstreamLength typeIDAT f.length)
    else
      match defilter n h.toNat 0 (List.replicate n 0) f with
      | .error r => .error r
      | .ok data => .ok (w, h, data)

/-- `decode(IN)` (R226). -/
def decodeFun (inflate : Inflate) (b : Build) (inp : List Byte) : Except ErrReport (Word × Word × List Byte) :=
  if inp.length < 8 ∨ inp.take 8 ≠ signature then .error (failure .badSignature 0 0)
  else
    match readChunk b inp 8 with
    | .error r => .error r
    | .ok (type, payload, next) =>
      if type ≠ typeIHDR then .error (failure .firstNotIhdr type 8)
      else
        match parseIhdr b 8 payload with
        | .error r => .error r
        | .ok (w, h) =>
          match collectChunks b inp inp.length next [] with
          | .error r => .error r
          | .ok z => decodeImage inflate w h z

/-- One filtered row with its filter-type byte (R97, R194). -/
def filterRowBytes (t : FilterType) (n : Nat) (row above : List Byte) : List Byte :=
  t.code :: (List.range n).map (filteredByte t (cellOf row) (cellOf above))

/-- The F stream of an image filtered with the given types, one row of `n` bytes for each (R191). -/
def filterWith (n : Nat) : List FilterType → List Byte → List Byte → List Byte
  | [], _, _ => []
  | t :: ts, above, data =>
    filterRowBytes t n (data.take n) above ++ filterWith n ts (data.take n) (data.drop n)

/-- `filter` (R228, R194): the F stream of `rows` rows of `n` bytes, under the row `above`. -/
def filterImage (fctl : Byte) (n : Nat) : Nat → List Byte → List Byte → List Byte
  | 0, _, _ => []
  | rows + 1, above, data =>
    let row := data.take n
    filterRowBytes (fsel fctl row above) n row above ++ filterImage fctl n rows row (data.drop n)

/-- The IDAT chunks of a Z stream that is not empty, cut at `m` bytes (R154); `fuel` bounds their number. -/
def idatChunks (m : Nat) : Nat → List Byte → List Byte
  | 0, _ => []
  | fuel + 1, z => if z = [] then [] else chunkBytes typeIDAT (z.take m) ++ idatChunks m fuel (z.drop m)

/-- The whole PNG file of an image and its Z stream (R156, R228). -/
def pngFile (w h : Word) (idatmax : Nat) (z : List Byte) : List Byte :=
  signature ++ chunkBytes typeIHDR (ihdrPayload w h) ++
    (if z = [] then chunkBytes typeIDAT [] else idatChunks idatmax z.length z) ++ chunkBytes typeIEND []

/-- `encode(W, H, data)` (R228). -/
def encodeFun (deflate : Deflate) (cfg : HostCfg) (w h : Word) (data : List Byte) : Except ErrReport (List Byte) :=
  let n := Config.bpp * w.toNat
  match deflate (filterImage cfg.fctl n h.toNat (List.replicate n 0) data) cfg.level with
  | none => .error (failure .deflateFailed typeIDAT 0)
  | some z => .ok (pngFile w h cfg.idatmax.toNat z)

end Sys2Proof.Machine
end

