-- ==== Sys2Proof/Safety.lean ====
section
/-! DEFINITION. The terms claims are stated in: what a failed command leaves (R240), the invariant of the machine, the premise
about the Compression Adapter (R163), sequences of operations and of steps. -/

namespace Sys2Proof.Machine

/-- `s` after `raise Kind(cause, context)`, spelled out from R240 with every entry of the report given. -/
def failState (kind cause : Byte) (type : Word) (offset : Nat) (stored computed : Word) (s : State) : State :=
  { s with
    err := { kind := kind, cause := cause, type := type, offset := offset, crcStored := stored,
             crcComputed := computed }
    st := .failed
    micro := .enter
    status := { s.status with busy := false, failed := true }
    zbuf := []
    fbuf := [] }

/-- The reader's registers while the chunk at `POS` is being framed, length and type as far as they have been read (R132). -/
def framing (len type : Word) (s : State) : State :=
  { s with rd := { s.rd with chunkoff := s.rd.pos, len := len, type := type, crcrx := 0 } }

/-- `s` when the CRC of the chunk at `POS` has been computed and its CRC field `crc` read, before the comparison (R132). -/
def framed (type : Word) (payload : List Byte) (crc : Word) (s : State) : State :=
  { s with
    crcacc := crcBytes crcInitial (enc32 type ++ payload)
    rd := { s.rd with chunkoff := s.rd.pos, len := BitVec.ofNat 32 payload.length, type := type, crcrx := crc } }

/-- `s` after the chunk at `POS` has been framed and its CRC has passed, before the dispatch (R132). -/
def delivered (type : Word) (payload : List Byte) (s : State) : State :=
  { s with
    crcacc := crcBytes crcInitial (enc32 type ++ payload)
    rd := { s.rd with
      pos := s.rd.pos + 12 + payload.length
      chunkoff := s.rd.pos
      len := BitVec.ofNat 32 payload.length
      type := type
      crcrx := crc32 (enc32 type ++ payload) } }

/-- `s` after the writer has appended one chunk (R152). -/
def appended (type : Word) (payload : List Byte) (s : State) : State :=
  { s with
    crcacc := crcBytes crcInitial (enc32 type ++ payload)
    rd := { s.rd with len := BitVec.ofNat 32 payload.length, type := type }
    ports := { s.ports with
      out := s.ports.out ++ (enc32 (BitVec.ofNat 32 payload.length) ++ enc32 type ++ payload ++
        enc32 (crc32 (enc32 type ++ payload))) }
    wr := { s.wr with opos := s.wr.opos + (12 + payload.length) } }

/-- Operations performed one after another, stopping at the first that does not answer a next state. -/
def execAll : List Instr → State → Host.Outcome State Fault Refusal
  | [], s => .next s
  | i :: is, s =>
    match exec i s with
    | .next t => execAll is t
    | .fault r => .fault r
    | .refused r => .refused r

/-- `n` steps of the machine, stopping at the first that does not answer a next state. -/
def stepN : Nat → State → Host.Outcome State Fault Refusal
  | 0, s => .next s
  | n + 1, s =>
    match step s with
    | .next t => stepN n t
    | .fault r => .fault r
    | .refused r => .refused r

/-- Law (b) of R163, the premise about the adapter: `inflate` inverts `deflate` wherever `deflate` does not fail. -/
def AdapterInverse (inflate : Inflate) (deflate : Deflate) : Prop :=
  ∀ (f : List Byte) (level : Byte) (z : List Byte), deflate f level = some z → inflate z = some f

/-- A chunk the reader takes after the header without ending there: any type but IHDR and IEND, a length within bounds. -/
def middleChunk (b : Build) (c : Word × List Byte) : Prop :=
  c.1 ≠ typeIHDR ∧ c.1 ≠ typeIEND ∧ c.2.length ≤ b.maxLen.toNat

/-- Chunks as the bytes of a stream. -/
def chunksBytes (cs : List (Word × List Byte)) : List Byte := cs.flatMap fun c => chunkBytes c.1 c.2

/-- The Z stream that chunks carry: the IDAT payloads, in order (R63). -/
def idatPayloads (cs : List (Word × List Byte)) : List Byte :=
  cs.flatMap fun c => if c.1 = typeIDAT then c.2 else []

/-- The image the block holds is `w` by `h` with the bytes `data` (R66, R207). -/
def State.holdsImage (s : State) (w h : Word) (data : List Byte) : Prop :=
  s.img.width = w ∧ s.img.height = h ∧ s.status.pixvalid = true ∧
    data.length = w.toNat * h.toNat * 3 ∧ ∀ a, a < data.length → s.pix.read a = data[a]?

/-- The size of an image the block accepts (R137, R207). -/
def sizeOk (b : Build) (w h : Word) : Prop :=
  1 ≤ w.toNat ∧ w.toNat ≤ b.maxDim.toNat ∧ 1 ≤ h.toNat ∧ h.toNat ≤ b.maxDim.toNat

/-- The state is inside the row loop of `DefilterRows`. -/
def State.inRows (s : State) : Prop := s.st = .defilterRows ∧ (s.micro = .row ∨ s.micro = .bytes)

/-- The invariant of the machine: what holds at reset and after every step. -/
structure Inv (s : State) : Prop where
  /-- The pixel memory is in canonical form. -/
  pixWf : Memory.wf s.pix
  /-- The legal values of R32. -/
  fctlLegal : s.cfg.fctl.toNat ≤ 5
  idatmaxLegal : s.cfg.idatmax ≠ 0
  /-- `BUSY`, `DONE`, `FAILED` say what `STATE` says (R30). -/
  busyIffRunning : s.status.busy = s.st.running
  doneIffDone : s.status.done = decide (s.st = .done)
  failedIffFailed : s.status.failed = decide (s.st = .failed)
  /-- There is an error report exactly in `Failed` (R31, R214, R244). -/
  reportIffFailed : s.err.kind ≠ 0 ↔ s.st = .failed
  /-- No stream buffer outlives its command (R221, R223, R240). -/
  idleBuffersEmpty : s.st.running = false → s.zbuf = [] ∧ s.fbuf = []
  /-- A valid image (R207). -/
  validImage : s.status.pixvalid = true →
    sizeOk s.build s.img.width s.img.height ∧ ∀ a, a < s.imageBytes → (s.pix.read a).isSome
  /-- While DECODE runs there is no image (R81, R241). -/
  decodeHidesImage : s.st.decoding = true →
    s.img.width = 0 ∧ s.img.height = 0 ∧ s.status.pixvalid = false
  /-- Where the fetch pointer stands (R26, R216). -/
  signaturePos : s.st = .readSignature → s.rd.pos = 0
  headerPos : s.st = .readIHDR → s.rd.pos = 8
  posInside : s.st = .readIHDR ∨ s.st = .collectDataChunks → s.rd.pos ≤ s.ports.inp.length
  /-- The header has not been seen before `CollectDataChunks`, and has from there on, with an accepted size (R137, R217). -/
  headerUnseen : s.st = .readSignature ∨ s.st = .readIHDR → s.rd.seenIhdr = false ∧ s.rd.seenIend = false
  headerSeen : s.st = .collectDataChunks ∨ s.st = .inflate ∨ s.st = .defilterRows →
    s.rd.seenIhdr = true ∧ sizeOk s.build s.hdr.w s.hdr.h
  /-- Inside the row loop the position is that of row `Y`, and the rows above it are written (R64, R179). -/
  rowPosition : s.inRows →
    s.fbuf.length = s.hdr.h.toNat * (1 + s.rowBytes) ∧ s.fl.y.toNat ≤ s.hdr.h.toNat ∧
    s.fl.fpos = s.fl.y.toNat * (1 + s.rowBytes) ∧ ∀ a, a < s.fl.y.toNat * s.rowBytes → (s.pix.read a).isSome
  insideRow : s.st = .defilterRows ∧ s.micro = .bytes → s.fl.y.toNat < s.hdr.h.toNat
  /-- While ENCODE runs the image is there and the header registers hold its size (R222). -/
  encodeHasImage : s.st.encoding = true →
    s.status.pixvalid = true ∧ s.hdr.w = s.img.width ∧ s.hdr.h = s.img.height
  /-- `OPOS` counts the bytes of `OUT` (R25, R62). -/
  oposCounts : s.st.encoding = true → s.wr.opos = s.ports.out.length

/-- A command has ended (R214). -/
def State.ended (s : State) : Prop := s.st = .done ∨ s.st = .failed

/-- The states that may follow a sequencer state in one step of the block (the column "next state on success" of R215 and
R223), besides itself and, while a command runs, `Failed`. -/
def SeqState.next? : SeqState → Option SeqState
  | .start => none
  | .readSignature => some .readIHDR
  | .readIHDR => some .collectDataChunks
  | .collectDataChunks => some .inflate
  | .inflate => some .defilterRows
  | .defilterRows => some .done
  | .filterRows => some .deflate
  | .deflate => some .emitIHDR
  | .emitIHDR => some .emitIDAT
  | .emitIDAT => some .emitIEND
  | .emitIEND => some .done
  | .done => none
  | .failed => none

end Sys2Proof.Machine
end

