-- ==== Sys2Proof/Certificates/Slice0/Obligations.lean ====
section
/-! DEFINITION. The statements for the provers. Each says which rules of the spec it formalises, or, where it rests on the
model's own choice, which log entry; OBLIGATIONS.json lists them. -/

section

open Sys2Proof Sys2Proof.Machine

/-! ### Reset -/

/-- R38, R261, and R260, R262: a hard reset, also while a command runs. The working registers hold the build's column of the
table (log entry 5); what R38 calls unspecified holds nothing written, and after a hard reset new unknown contents (log entries
6, 7, 24); the streams and the build are the host's. -/
def Obligations.ResetHoldsTheTableValues : Prop :=
  State.reset.st = .start ∧ State.reset.status.byte = 0 ∧ State.reset.err = noReport ∧
  State.reset.cfg = { fctl := 0, idatmax := 0xFFFFFFFF, level := 6 } ∧
  State.reset.img = { width := 0, height := 0, px := 0, py := 0, pr := 0, pg := 0, pb := 0 } ∧
  State.reset.crcacc = 0xFFFFFFFF ∧
  State.reset.rd = { pos := 0, chunkoff := 0, len := 0, type := 0, crcrx := 0, seenIhdr := false, seenIend := false } ∧
  State.reset.wr = { opos := 0, zpos := 0 } ∧ State.reset.fl = { ft := 0, y := 0, i := 0, fpos := 0 } ∧
  State.reset.hdr = { w := 0, h := 0, bitDepth := 0, colorType := 0, compression := 0, filterMethod := 0, interlace := 0 } ∧
  State.reset.zbuf = [] ∧ State.reset.fbuf = [] ∧
  State.reset.prev = [] ∧ State.reset.cur = [] ∧ State.reset.pix = [] ∧
  ∀ (s : State) (rest : List HostMove), s.host = .reset :: rest →
    step s = .next { State.reset with
      ports := s.ports, host := rest, epoch := s.epoch + 1, fresh := s.fresh, build := s.build }

/-! ### Encodings -/

/-- R91, R93, R103, R105, R109, R110, R204: words written out from the tables. -/
def Obligations.SpecWordsDecodeToTheirOperations : Prop :=
  decodeTableWord 8 0x01 = some .decode ∧ decodeTableWord 8 0x02 = some .encode ∧
  decodeTableWord 8 0x03 = some .pixGet ∧ decodeTableWord 8 0x04 = some .pixSet ∧
  decodeTableWord 8 0x00 = some (.cmdReserved 0x00) ∧ decodeTableWord 8 0x05 = some (.cmdReserved 0x05) ∧
  decodeTableWord 8 0xFF = some (.cmdReserved 0xFF) ∧
  decodeTableWord 64 0x89504E470D0A1A0A = some .rdSig ∧
  decodeTableWord 32 0x49484452 = some (.chunkIhdr []) ∧ decodeTableWord 32 0x49444154 = some (.chunkIdat []) ∧
  decodeTableWord 32 0x49454E44 = some (.chunkIend []) ∧
  decodeTableWord 32 0x69686472 = some (.chunkOther 0x69686472 []) ∧
  (decode .chunkIn [0x00, 0x00, 0x00, 0x00, 0x49, 0x45, 0x4E, 0x44, 0xAE, 0x42, 0x60, 0x82]).toOption = some (.chunkIend [], []) ∧
  (decode .sigOut [0x89, 0x50, 0x4E, 0x47, 0x0D, 0x0A, 0x1A, 0x0A]).toOption = some (.wrSig, []) ∧
  (decode .typeOut [0x49, 0x48, 0x44, 0x52]).toOption = some (.emitIhdr, []) ∧
  (decode .rowIn [0x00]).toOption = some (.reconNone, []) ∧ (decode .rowIn [0x01]).toOption = some (.reconSub, []) ∧
  (decode .rowIn [0x02]).toOption = some (.reconUp, []) ∧ (decode .rowIn [0x03]).toOption = some (.reconAvg, []) ∧
  (decode .rowIn [0x04]).toOption = some (.reconPaeth, []) ∧ (decode .rowIn [0x05]).toOption = some (.rowIllegal 0x05, []) ∧
  (decode .rowIn [0xFF]).toOption = some (.rowIllegal 0xFF, []) ∧
  (decode .rowOut [0x03]).toOption = some (.filtAvg, []) ∧ (decode .reg [11]).toOption = some (.pixWidth, []) ∧
  (decode .reg [12]).toOption = some (.pixHeight, [])

/-- Decoding an encoded well-formed instruction gives it back, whatever bytes follow: no bit of an encoding is dropped. -/
def Obligations.DecodeOfEncodeIsTheInstruction : Prop :=
  ∀ (i : Instr) (bs rest : List Byte), i.wellFormed = true → encode i = some bs →
    decode i.format (bs ++ rest) = .ok (i, rest)

/-- What the decoder accepts in a format is exactly the encoding of a well-formed instruction of that format. R111: bits of a
format that selects an operation never select one invoked by name; the bytes of the other formats are those that such an operation
reads or writes (the model's reading, log entry 30). -/
def Obligations.DecodedBytesAreTheEncoding : Prop :=
  ∀ (f : Format) (bs rest : List Byte) (i : Instr), decode f bs = .ok (i, rest) →
    i.wellFormed = true ∧ i.format = f ∧ i.byName = !f.selects ∧ ∃ e, encode i = some e ∧ bs = e ++ rest

/-! ### Operand assembly -/

/-- R100, R101. -/
def Obligations.BigEndianFieldsAreExactInverses : Prop :=
  (∀ (s : State) (b0 b1 b2 b3 : Byte), exec (.be32 b0 b1 b2 b3) s = .next { s with
    value := .word (BitVec.ofNat 32
      (b0.toNat * 2 ^ 24 + b1.toNat * 2 ^ 16 + b2.toNat * 2 ^ 8 + b3.toNat)) }) ∧
  (∀ (s : State) (v : Word), exec (.enc32 v) s = .next { s with
    value := .bytes [BitVec.ofNat 8 (v.toNat / 2 ^ 24), BitVec.ofNat 8 (v.toNat / 2 ^ 16),
      BitVec.ofNat 8 (v.toNat / 2 ^ 8), BitVec.ofNat 8 v.toNat] }) ∧
  (∀ v : Word, be32Of (enc32 v) = v) ∧
  (∀ b0 b1 b2 b3 : Byte, enc32 (be32 b0 b1 b2 b3) = [b0, b1, b2, b3])

/-! ### CRC-32 engine -/

/-- R121, R122, R123. -/
def Obligations.CrcInitUpdateFinalResults : Prop :=
  (∀ s : State, exec .crcInit s = .next { s with crcacc := 0xFFFFFFFF }) ∧
  (∀ (s : State) (b : Byte), exec (.crcUpdate b) s = .next { s with
    crcacc := (fun c : Word => if c.getLsbD 0 then (c >>> 1) ^^^ 0xEDB88320 else c >>> 1)^[8]
      (s.crcacc ^^^ b.setWidth 32) }) ∧
  (∀ s : State, exec .crcFinal s = .next { s with value := .word (s.crcacc ^^^ 0xFFFFFFFF) })

/-- R124: the operation is the sequence of its parts, and so is its result. -/
def Obligations.CrcChunkIsInitUpdatesFinal : Prop :=
  ∀ (s : State) (type : Word) (payload : List Byte),
    exec (.crcChunk type payload) s =
      execAll (.crcInit :: (enc32 type ++ payload).map .crcUpdate ++ [.crcFinal]) s ∧
    exec (.crcChunk type payload) s = .next { s with
      crcacc := (enc32 type ++ payload).foldl crcByte 0xFFFFFFFF
      value := .word ((enc32 type ++ payload).foldl crcByte 0xFFFFFFFF ^^^ 0xFFFFFFFF) }

/-- R125: the table form of `CRC.UPDATE`, and the entries the rule gives. -/
def Obligations.CrcUpdateHasATableForm : Prop :=
  ∃ T : Byte → Word,
    (∀ (s : State) (b : Byte), exec (.crcUpdate b) s = .next { s with
      crcacc := T (s.crcacc.setWidth 8 ^^^ b) ^^^ (s.crcacc >>> 8) }) ∧
    (∀ n : Byte, T n = crcShifts 8 (n.setWidth 32)) ∧
    T 0 = 0 ∧ T 1 = 0x77073096 ∧ T 2 = 0xEE0E612C ∧ T 3 = 0x990951BA ∧ T 4 = 0x076DC419 ∧ T 8 = 0x0EDB8832 ∧
    T 16 = 0x1DB71064 ∧ T 32 = 0x3B6E20C8 ∧ T 64 = 0x76DC4190 ∧ T 128 = 0xEDB88320 ∧ T 255 = 0x2D02EF8D

/-- R127, and more: two sequences of equal length that differ in the bits of one byte only have different checksums. -/
def Obligations.CrcDetectsAnyErrorInsideOneByte : Prop :=
  ∀ (p q : List Byte) (a b : Byte), a ≠ b → crc32 (p ++ a :: q) ≠ crc32 (p ++ b :: q)

/-! ### Chunk reader -/

/-- R131, for a port that works: all eight bytes are compared and nothing after them is looked at. -/
def Obligations.ReadSignatureAcceptsExactlyTheSignature : Prop :=
  ∀ s : State, s.ports.inFail = none →
    exec .rdSig s = .next
      (if s.ports.inp.take 8 = [0x89, 0x50, 0x4E, 0x47, 0x0D, 0x0A, 0x1A, 0x0A] then
        { s with rd := { s.rd with pos := 8, chunkoff := 0, type := 0 } }
      else failState 2 1 0 0 0 0 { s with rd := { s.rd with chunkoff := 0, type := 0 } })

/-- R132, R133, R142, for a port that works: the framing errors in their order, then the CRC comparison; a chunk that passes
goes to the dispatch with `POS` behind it. `n` bytes are left, `L` is the length field, `T` the type field, `C` the CRC field. -/
def Obligations.ReadChunkFramesInOrder : Prop :=
  ∀ s : State, s.ports.inFail = none →
    let left := s.ports.inp.drop s.rd.pos
    let n := left.length
    let L := be32Of (left.take 4)
    let T := be32Of ((left.drop 4).take 4)
    let payload := (left.drop 8).take L.toNat
    let C := be32Of ((left.drop (8 + L.toNat)).take 4)
    let computed := crc32 (enc32 T ++ payload)
    exec .rdChunk s =
      if n < 4 then .next (failState 2 2 0 s.rd.pos 0 0 (framing 0 0 s))
      else if L.toNat > s.build.maxLen.toNat then .next (failState 2 6 0 s.rd.pos 0 0 (framing L 0 s))
      else if n < 8 then .next (failState 2 3 0 s.rd.pos 0 0 (framing L 0 s))
      else if n < 8 + L.toNat then .next (failState 2 4 T s.rd.pos 0 0 (framing L T s))
      else if n < 12 + L.toNat then .next (failState 2 5 T s.rd.pos 0 0 (framing L T s))
      else if computed ≠ C then .next (failState 3 1 T s.rd.pos C computed (framed T payload C s))
      else dispatchChunk payload (delivered T payload s)

/-- R134, R135: a chunk that the decoder accepts is the operation its type selects, performed on the state with the chunk
delivered; the first chunk must be IHDR and no later one may be. -/
def Obligations.ReadChunkRunsTheDecodedChunk : Prop :=
  ∀ (s : State) (type : Word) (payload rest : List Byte), s.ports.inFail = none →
    splitChunk (s.ports.inp.drop s.rd.pos) = .ok (type, payload, rest) →
    payload.length ≤ s.build.maxLen.toNat →
    decode .chunkIn (s.ports.inp.drop s.rd.pos) = .ok (decodeChunk type payload, rest) ∧
    exec .rdChunk s =
      if s.rd.seenIhdr = false ∧ type ≠ 0x49484452 then
        .next (failState 2 7 type s.rd.pos 0 0 (delivered type payload s))
      else if s.rd.seenIhdr = true ∧ type = 0x49484452 then
        .next (failState 2 10 type s.rd.pos 0 0 (delivered type payload s))
      else exec (decodeChunk type payload) (delivered type payload s)

/-- R132 to R140: where `RD.CHUNK` completes, for each type of chunk, and what it then leaves. -/
def Obligations.ReadChunkCompletesOnEachType : Prop :=
  ∀ (s : State) (rest : List Byte), s.ports.inFail = none →
    (∀ (type : Word) (payload : List Byte), s.rd.seenIhdr = true → payload.length ≤ s.build.maxLen.toNat →
      type ≠ typeIHDR → type ≠ typeIDAT → type ≠ typeIEND →
      s.ports.inp.drop s.rd.pos = chunkBytes type payload ++ rest →
      exec .rdChunk s = .next (delivered type payload s)) ∧
    (∀ payload : List Byte, s.rd.seenIhdr = true → payload.length ≤ s.build.maxLen.toNat →
      s.ports.inp.drop s.rd.pos = chunkBytes typeIDAT payload ++ rest →
      exec .rdChunk s = .next { delivered typeIDAT payload s with zbuf := s.zbuf ++ payload }) ∧
    (s.rd.seenIhdr = true → s.ports.inp.drop s.rd.pos = chunkBytes typeIEND [] ++ rest →
      exec .rdChunk s = .next { delivered typeIEND [] s with
        rd := { (delivered typeIEND [] s).rd with seenIend := true } }) ∧
    (∀ w h : Word, s.rd.seenIhdr = false → 13 ≤ s.build.maxLen.toNat → sizeOk s.build w h →
      s.ports.inp.drop s.rd.pos = chunkBytes typeIHDR (ihdrPayload w h) ++ rest →
      exec .rdChunk s = .next { delivered typeIHDR (ihdrPayload w h) s with
        hdr := { w := w, h := h, bitDepth := 8, colorType := 2, compression := 0, filterMethod := 0, interlace := 0 }
        rd := { (delivered typeIHDR (ihdrPayload w h) s).rd with seenIhdr := true } })

/-- R133, R229: a chunk in whose payload the bits of one byte have been changed since its CRC was computed raises
ChecksumError, before any test on its content. -/
def Obligations.CorruptPayloadRaisesChecksumError : Prop :=
  ∀ (s : State) (type : Word) (payload rest : List Byte) (k : Nat) (x : Byte),
    s.ports.inFail = none → payload.length ≤ s.build.maxLen.toNat → k < payload.length → x ≠ 0 →
    s.ports.inp.drop s.rd.pos =
      enc32 (BitVec.ofNat 32 payload.length) ++ enc32 type ++ payload.set k (payload.getD k 0 ^^^ x) ++
        enc32 (crc32 (enc32 type ++ payload)) ++ rest →
    exec .rdChunk s = .next (failState 3 1 type s.rd.pos (crc32 (enc32 type ++ payload))
      (crc32 (enc32 type ++ payload.set k (payload.getD k 0 ^^^ x)))
      (framed type (payload.set k (payload.getD k 0 ^^^ x)) (crc32 (enc32 type ++ payload)) s))

/-- R137: the tests in their order, each with its cause; the fields are in the header registers before the first test. -/
def Obligations.HeaderChunkTestsInOrder : Prop :=
  (∀ (s : State) (payload : List Byte), s.rd.len ≠ 13 →
    exec (.chunkIhdr payload) s = .next (failState 2 8 s.rd.type s.rd.chunkoff 0 0 s)) ∧
  (∀ (s : State) (w h : Word) (bd ct cm fm il : Byte), s.rd.len = 13 →
    let u : State := { s with
      hdr := { w := w, h := h, bitDepth := bd, colorType := ct, compression := cm, filterMethod := fm, interlace := il } }
    exec (.chunkIhdr (enc32 w ++ enc32 h ++ [bd, ct, cm, fm, il])) s = .next
      (if w = 0 ∨ h = 0 then failState 2 9 s.rd.type s.rd.chunkoff 0 0 u
      else if bd ≠ 8 then failState 4 1 s.rd.type s.rd.chunkoff 0 0 u
      else if ct ≠ 2 then failState 4 2 s.rd.type s.rd.chunkoff 0 0 u
      else if cm ≠ 0 then failState 4 3 s.rd.type s.rd.chunkoff 0 0 u
      else if fm ≠ 0 then failState 4 4 s.rd.type s.rd.chunkoff 0 0 u
      else if il ≠ 0 then failState 4 5 s.rd.type s.rd.chunkoff 0 0 u
      else if w.toNat > s.build.maxDim.toNat ∨ h.toNat > s.build.maxDim.toNat then
        failState 4 6 s.rd.type s.rd.chunkoff 0 0 u
      else { u with rd := { s.rd with seenIhdr := true } }))

/-- R138, R139, R140. When `SEEN_IEND` is 1 the block is in `Inflate` and reads no further chunk (R139). -/
def Obligations.DataEndAndOtherChunkResults : Prop :=
  (∀ (s : State) (payload : List Byte),
    exec (.chunkIdat payload) s = .next { s with zbuf := s.zbuf ++ payload }) ∧
  (∀ (s : State) (payload : List Byte), exec (.chunkIend payload) s = .next
    (if s.rd.len ≠ 0 then failState 2 11 s.rd.type s.rd.chunkoff 0 0 s
    else { s with rd := { s.rd with seenIend := true } })) ∧
  (∀ (s : State) (type : Word) (payload : List Byte), exec (.chunkOther type payload) s = .next s) ∧
  (∀ s t : State, s.host = [] → s.st = .collectDataChunks → step s = .next t → t.rd.seenIend = true →
    t.st = .inflate ∧ fetch t = some .zportInflate)

/-- R237, R232 (`READ_FAILED`): a port that fails inside the 8 bytes of the signature, or inside a chunk that is all there. The
model's reading of "`POS` of the failing read" is the register `POS` (log entry 9). -/
def Obligations.FailingReadRaisesIoError : Prop :=
  (∀ (s : State) (k : Nat), s.ports.inFail = some k → k < 8 → 8 ≤ s.ports.inp.length →
    exec .rdSig s = .next
      (failState 1 1 0 s.rd.pos 0 0 { s with rd := { s.rd with chunkoff := 0, type := 0 } })) ∧
  (∀ (s : State) (k : Nat) (type crc : Word) (payload rest : List Byte), s.ports.inFail = some k →
    payload.length ≤ s.build.maxLen.toNat →
    s.ports.inp.drop s.rd.pos =
      enc32 (BitVec.ofNat 32 payload.length) ++ enc32 type ++ payload ++ enc32 crc ++ rest →
    s.rd.pos ≤ k → k < s.rd.pos + 12 + payload.length →
    exec .rdChunk s = .next
      (if k < s.rd.pos + 4 then failState 1 1 0 s.rd.pos 0 0 (framing 0 0 s)
      else if k < s.rd.pos + 8 then
        failState 1 1 0 s.rd.pos 0 0 (framing (BitVec.ofNat 32 payload.length) 0 s)
      else failState 1 1 type s.rd.pos 0 0 (framing (BitVec.ofNat 32 payload.length) type s)))

/-! ### Chunk writer -/

/-- R151, R152, for a port that works. -/
def Obligations.WriterAppendsSignatureAndChunk : Prop :=
  (∀ s : State, s.ports.outFail = none →
    exec .wrSig s = .next { s with
      ports := { s.ports with out := s.ports.out ++ [0x89, 0x50, 0x4E, 0x47, 0x0D, 0x0A, 0x1A, 0x0A] }
      wr := { s.wr with opos := s.wr.opos + 8 } }) ∧
  (∀ (s : State) (type : Word) (payload : List Byte), s.ports.outFail = none → payload.length < 2 ^ 32 →
    exec (.wrChunk type payload) s = .next (appended type payload s))

/-- R152's inverse property: what `WR.CHUNK` appends reads back as the same type and payload, whatever follows. -/
def Obligations.WrittenChunkReadsBack : Prop :=
  ∀ (s t : State) (type : Word) (payload rest : List Byte), s.ports.outFail = none →
    payload.length ≤ s.build.maxLen.toNat → exec (.wrChunk type payload) s = .next t →
    readChunk s.build (t.ports.out ++ rest) s.ports.out.length = .ok (type, payload, t.ports.out.length)

/-- R153, R155, for a port that works. -/
def Obligations.EmitHeaderAndEndChunks : Prop :=
  (∀ s : State, s.ports.outFail = none →
    exec .emitIhdr s = .next { appended 0x49484452
        (enc32 s.img.width ++ enc32 s.img.height ++ [0x08, 0x02, 0x00, 0x00, 0x00]) s with
      hdr := { w := s.img.width, h := s.img.height, bitDepth := 8, colorType := 2, compression := 0, filterMethod := 0,
               interlace := 0 } }) ∧
  (∀ s : State, s.ports.outFail = none →
    exec .emitIend s = .next (appended 0x49454E44 [] s) ∧
    (appended 0x49454E44 [] s).ports.out =
      s.ports.out ++ [0x00, 0x00, 0x00, 0x00, 0x49, 0x45, 0x4E, 0x44, 0xAE, 0x42, 0x60, 0x82])

/-- R154, for a port that works: one empty chunk for an empty stream, else `ceil(|ZBUF| / IDATMAX)` chunks, the `j`-th with the
bytes from `j * IDATMAX` on. -/
def Obligations.EmitDataCutsTheStream : Prop :=
  ∀ s : State, s.ports.outFail = none → s.cfg.idatmax ≠ 0 →
    let m := s.cfg.idatmax.toNat
    let k := (s.zbuf.length + m - 1) / m
    exec .emitIdat s = .next
      (if s.zbuf = [] then appended typeIDAT [] { s with wr := { s.wr with zpos := 0 } }
      else { s with
        crcacc := crcBytes crcInitial (enc32 typeIDAT ++ s.zbuf.drop ((k - 1) * m))
        rd := { s.rd with len := BitVec.ofNat 32 (s.zbuf.length - (k - 1) * m), type := typeIDAT }
        ports := { s.ports with
          out := s.ports.out ++
            (List.range k).flatMap fun j => chunkBytes typeIDAT ((s.zbuf.drop (j * m)).take m) }
        wr := { opos := s.wr.opos + (12 * k + s.zbuf.length), zpos := s.zbuf.length } })

/-- R157, R232 (`WRITE_FAILED`): a port that fails inside a write. Some front part of it has arrived (log entry 8); before
`EmitIHDR` has a chunk the report's type is 0 (log entry 9). -/
def Obligations.FailedWriteRaisesIoError : Prop :=
  (∀ (s : State) (k : Nat), s.ports.outFail = some k → s.wr.opos ≤ k → k < s.wr.opos + 8 →
    ∃ n, exec .wrSig s = .next (failState 1 2 0 s.wr.opos 0 0 { s with
      ports := { s.ports with out := s.ports.out ++ signature.take n }
      fresh := s.fresh + 1 })) ∧
  (∀ (s : State) (k : Nat) (type : Word) (payload : List Byte), s.ports.outFail = some k →
    payload.length < 2 ^ 32 → s.wr.opos ≤ k → k < s.wr.opos + (12 + payload.length) →
    ∃ n, exec (.wrChunk type payload) s = .next (failState 1 2 type s.wr.opos 0 0 { s with
      crcacc := crcBytes crcInitial (enc32 type ++ payload)
      rd := { s.rd with len := BitVec.ofNat 32 payload.length, type := type }
      ports := { s.ports with out := s.ports.out ++ (chunkBytes type payload).take n }
      fresh := s.fresh + 1 }))

/-! ### Compression port -/

/-- R161, R162: one call on the whole sequence; the answer goes to the other buffer, a failure is CompressionError. -/
def Obligations.AdapterAnswerIsStoredOrRaised : Prop :=
  (∀ s : State, exec .zportInflate s = .next (match Config.inflate s.zbuf with
    | some r => { s with fbuf := r }
    | none => failState 5 1 0x49444154 0 0 0 s)) ∧
  (∀ s : State, exec .zportDeflate s = .next (match Config.deflate s.fbuf s.cfg.level with
    | some r => { s with zbuf := r }
    | none => failState 5 2 0x49444154 0 0 0 s))

/-! ### Filter engine, decode -/

/-- R171 to R177: byte `I` of a row for each filter type, from the reconstructed neighbours; only `CUR[I]` and `I` change. -/
def Obligations.ReconstructedByteOfEachType : Prop :=
  ∀ (s : State) (filt : Byte), s.fl.i < 3 * s.hdr.w.toNat → s.fbuf[s.fl.fpos + 1 + s.fl.i]? = some filt →
    let a := if 3 ≤ s.fl.i then s.curAt (s.fl.i - 3) else 0
    let b := s.prevAt s.fl.i
    let c := if 3 ≤ s.fl.i then s.prevAt (s.fl.i - 3) else 0
    let stored (v : Byte) : State := { s.setCur s.fl.i v with fl := { s.fl with i := s.fl.i + 1 } }
    exec .reconNone s = .next (stored filt) ∧
    exec .reconSub s = .next (stored (BitVec.ofNat 8 ((filt.toNat + a.toNat) % 256))) ∧
    exec .reconUp s = .next (stored (BitVec.ofNat 8 ((filt.toNat + b.toNat) % 256))) ∧
    exec .reconAvg s = .next (stored (BitVec.ofNat 8 ((filt.toNat + (a.toNat + b.toNat) / 2) % 256))) ∧
    exec .reconPaeth s = .next (stored (BitVec.ofNat 8 ((filt.toNat + (paeth a b c).toNat) % 256))) ∧
    (∀ v, (stored v).curAt s.fl.i = v) ∧
    (∀ v j, j ≠ s.fl.i → (stored v).curAt j = s.curAt j)

/-- R181: the neighbour nearest to the estimate, ties to left, then up. -/
def Obligations.PaethPicksTheNearestNeighbour : Prop :=
  ∀ (s : State) (a b c : Byte),
    exec (.paeth a b c) s = .next { s with value := .byte (paeth a b c) } ∧
    let p : Int := (a.toNat : Int) + b.toNat - c.toNat
    let pa := |p - a.toNat|
    let pb := |p - b.toNat|
    let pc := |p - c.toNat|
    pa = |(b.toNat : Int) - c.toNat| ∧ pb = |(a.toNat : Int) - c.toNat| ∧
    pc = |(a.toNat : Int) + b.toNat - 2 * c.toNat| ∧
    (pa ≤ pb ∧ pa ≤ pc → paeth a b c = a) ∧
    (¬ (pa ≤ pb ∧ pa ≤ pc) ∧ pb ≤ pc → paeth a b c = b) ∧
    (¬ (pa ≤ pb ∧ pa ≤ pc) ∧ ¬ pb ≤ pc → paeth a b c = c)

/-- R184: on row 0, where `PREV` is all zeros, and at the left edge. -/
def Obligations.EdgeIdentitiesOfTheFilters : Prop :=
  ∀ s : State,
    ((∀ k, k < 3 * s.hdr.w.toNat → s.prevAt k = 0) →
      exec .reconUp s = exec .reconNone s ∧ exec .reconPaeth s = exec .reconSub s ∧
      (s.fl.i < 3 → exec .reconAvg s = exec .reconNone s)) ∧
    (s.fl.i < 3 →
      exec .reconSub s = exec .reconNone s ∧ exec .reconPaeth s = exec .reconUp s) ∧
    (∀ filt : Byte, s.fl.i < 3 * s.hdr.w.toNat → s.fbuf[s.fl.fpos + 1 + s.fl.i]? = some filt →
      ((∀ k, k < 3 * s.hdr.w.toNat → s.prevAt k = 0) → 3 ≤ s.fl.i → exec .reconAvg s = .next { s.setCur s.fl.i
          (BitVec.ofNat 8 (filt.toNat + (s.curAt (s.fl.i - 3)).toNat / 2)) with
        fl := { s.fl with i := s.fl.i + 1 } }) ∧
      (s.fl.i < 3 → exec .reconAvg s = .next { s.setCur s.fl.i
          (BitVec.ofNat 8 (filt.toNat + (s.prevAt s.fl.i).toNat / 2)) with
        fl := { s.fl with i := s.fl.i + 1 } }))

/-- R182. -/
def Obligations.IllegalRowTypeRaisesFormatError : Prop :=
  (∀ (s : State) (ft : Byte), exec (.rowIllegal ft) s = .next (failState 2 13 0x49444154 s.fl.fpos 0 0 s)) ∧
  (∀ s : State, s.host = [] → s.st = .defilterRows → s.micro = .bytes → 4 < s.fl.ft.toNat →
    step s = .next (failState 2 13 0x49444154 s.fl.fpos 0 0 s))

/-- R178, then the first lines of R179. -/
def Obligations.StreamLengthIsCheckedBeforeAnyRow : Prop :=
  ∀ s : State, s.host = [] → s.st = .defilterRows → s.micro = .enter →
    step s = .next
      (if s.fbuf.length ≠ s.hdr.h.toNat * (1 + 3 * s.hdr.w.toNat) then
        failState 2 12 0x49444154 s.fbuf.length 0 0 s
      else { s with
        prev := List.replicate (3 * s.hdr.w.toNat) 0 ++ s.prev.drop (3 * s.hdr.w.toNat)
        fl := { s.fl with y := 0, fpos := 0 }
        micro := .row })

/-- R180: at the end of a row its bytes are in the pixel memory at `Y * W3`, and nowhere else, and in `PREV`. -/
def Obligations.RowEndStoresTheRow : Prop :=
  ∀ s : State, s.host = [] → s.st = .defilterRows → s.micro = .bytes → s.fl.ft.toNat ≤ 4 →
    s.fl.i = 3 * s.hdr.w.toNat → s.fl.y.toNat < s.hdr.h.toNat →
    let n := 3 * s.hdr.w.toNat
    ∃ t, step s = .next t ∧
      t = { s with
        pix := t.pix, prev := t.prev, micro := .row
        fl := { s.fl with fpos := s.fl.fpos + 1 + n, y := s.fl.y + 1 } } ∧
      t.fl.y.toNat = s.fl.y.toNat + 1 ∧
      (∀ a, t.pix.read a =
        if s.fl.y.toNat * n ≤ a ∧ a < s.fl.y.toNat * n + n then some (s.curAt (a - s.fl.y.toNat * n))
        else s.pix.read a) ∧
      (∀ k, t.prevAt k = if k < n then s.curAt k else s.prevAt k)

/-! ### Filter engine, encode -/

/-- R186 to R190: the byte emitted for `CUR[I]` by each filter type; only `FBUF` and `I` change. -/
def Obligations.FilteredByteOfEachType : Prop :=
  ∀ s : State, s.fl.i < 3 * s.hdr.w.toNat →
    let orig := (s.curAt s.fl.i).toNat
    let a := if 3 ≤ s.fl.i then s.curAt (s.fl.i - 3) else 0
    let b := s.prevAt s.fl.i
    let c := if 3 ≤ s.fl.i then s.prevAt (s.fl.i - 3) else 0
    let emitted (v : Nat) : State := { s with
      fbuf := s.fbuf ++ [BitVec.ofNat 8 v]
      fl := { s.fl with i := s.fl.i + 1 } }
    exec .filtNone s = .next (emitted orig) ∧
    exec .filtSub s = .next (emitted ((256 + orig - a.toNat) % 256)) ∧
    exec .filtUp s = .next (emitted ((256 + orig - b.toNat) % 256)) ∧
    exec .filtAvg s = .next (emitted ((256 + orig - (a.toNat + b.toNat) / 2) % 256)) ∧
    exec .filtPaeth s = .next (emitted ((256 + orig - (paeth a b c).toNat) % 256))

/-- R194, R192: the head of a row on encode: the original row from the pixel memory, the choice, the filter-type byte. -/
def Obligations.RowHeadLoadsAndChooses : Prop :=
  ∀ s : State, s.host = [] → s.st = .filterRows → s.micro = .row → s.fl.y.toNat < s.hdr.h.toNat →
    let n := 3 * s.hdr.w.toNat
    ∃ t, step s = .next t ∧
      t = { s with
        cur := t.cur, fbuf := s.fbuf ++ [t.fl.ft], micro := .bytes
        fl := { s.fl with ft := t.fl.ft, i := 0 } } ∧
      (∀ k, t.curAt k = if k < n then s.pixByte (s.fl.y.toNat * n + k) else s.curAt k) ∧
      t.fl.ft = (fsel s.cfg.fctl (s.pixBytes (s.fl.y.toNat * n) n) (s.prevCells n)).code ∧
      t.fl.ft.toNat ≤ 4

/-- R192, R193: `FCTL` 0 to 4 is that type on every row; 5 is the least cost, among equal costs the smallest type; the cost is
the sum of the filtered bytes' absolute values, read as signed 8-bit numbers. -/
def Obligations.FilterChoiceFollowsTheRegister : Prop :=
  ∀ row above : List Byte,
    (∀ t : FilterType, fsel t.code row above = t) ∧
    (∀ t : FilterType, cost (fsel 5 row above) row above ≤ cost t row above) ∧
    (∀ t : FilterType, cost t row above = cost (fsel 5 row above) row above →
      (fsel 5 row above).code.toNat ≤ t.code.toNat) ∧
    (∀ t : FilterType, cost t row above =
      ((List.range row.length).map fun i =>
        (filteredByte t (cellOf row) (cellOf above) i).toInt.natAbs).sum) ∧
    (∀ t : FilterType, cost t row above ≤ 128 * row.length)

/-- R191: whatever types are chosen, reconstructing the filtered stream gives the original bytes; the block's own choice is
such a choice, whatever `FCTL` is; the stream has the length the decoder demands (R194). -/
def Obligations.FilteringIsUndoneByReconstruction : Prop :=
  (∀ (n fpos : Nat) (ts : List FilterType) (above data : List Byte), data.length = ts.length * n →
    defilter n ts.length fpos above (filterWith n ts above data) = .ok data ∧
    (filterWith n ts above data).length = ts.length * (1 + n)) ∧
  (∀ (fctl : Byte) (n rows : Nat) (above data : List Byte), ∃ ts : List FilterType, ts.length = rows ∧
    filterImage fctl n rows above data = filterWith n ts above data)

/-! ### Pixel memory and registers -/

/-- R201, R203. -/
def Obligations.PixelReadReturnsItsThreeBytes : Prop :=
  ∀ s : State, s.status.busy = false →
    let a := (s.img.py.toNat * s.img.width.toNat + s.img.px.toNat) * 3
    exec .pixGet s = .next
      (if s.img.px.toNat ≥ s.img.width.toNat ∨ s.img.py.toNat ≥ s.img.height.toNat then
        { s with status := { s.status with oor := true } }
      else { s with
        status := { s.status with oor := false }
        img := { s.img with pr := s.pixByte a, pg := s.pixByte (a + 1), pb := s.pixByte (a + 2) } })

/-- R202, R203: exactly the three bytes of the pixel change, and of the registers `OOR` and, as R206 says, `PIXVALID`. -/
def Obligations.PixelWriteChangesItsThreeBytes : Prop :=
  ∀ s : State, s.status.busy = false →
    let a := (s.img.py.toNat * s.img.width.toNat + s.img.px.toNat) * 3
    (s.img.px.toNat ≥ s.img.width.toNat ∨ s.img.py.toNat ≥ s.img.height.toNat →
      exec .pixSet s = .next { s with status := { s.status with oor := true } }) ∧
    (s.img.px.toNat < s.img.width.toNat → s.img.py.toNat < s.img.height.toNat →
      ∃ t, exec .pixSet s = .next t ∧
        t = { s with pix := t.pix, status := { s.status with oor := false, pixvalid := t.status.pixvalid } } ∧
        (∀ k, t.pix.read k =
          if k = a then some s.img.pr else if k = a + 1 then some s.img.pg
          else if k = a + 2 then some s.img.pb else s.pix.read k) ∧
        (s.status.pixvalid = true → t.status.pixvalid = true) ∧ (Memory.wf s.pix → Memory.wf t.pix))

/-- R66, R75, R202: distinct pixels never share a byte: after a `PIX.SET` a `PIX.GET` of the same coordinates gives the
values written, and of any other pixel what it gave before. -/
def Obligations.PixelsDoNotAlias : Prop :=
  ∀ (s t : State) (x y : Word), s.status.busy = false → exec .pixSet s = .next t →
    s.img.px.toNat < s.img.width.toNat → s.img.py.toNat < s.img.height.toNat →
    x.toNat < s.img.width.toNat → y.toNat < s.img.height.toNat →
    ∃ u v, exec .pixGet { t with img := { t.img with px := x, py := y } } = .next u ∧
      exec .pixGet { s with img := { s.img with px := x, py := y } } = .next v ∧
      (u.img.pr, u.img.pg, u.img.pb) =
        if x = s.img.px ∧ y = s.img.py then (s.img.pr, s.img.pg, s.img.pb) else (v.img.pr, v.img.pg, v.img.pb)

/-- R204. -/
def Obligations.ImageSizeReadsHaveNoSideEffect : Prop :=
  (∀ s : State, exec .pixWidth s = .next { s with value := .word s.img.width }) ∧
  (∀ s : State, exec .pixHeight s = .next { s with value := .word s.img.height })

/-- R206: a write of the size drops the image; `PIX.SET` makes it valid when every pixel has been written since. The bound
`MAX_DIM` is R207's (log entry 21). -/
def Obligations.ImageBecomesValidWhenEveryPixelIsWritten : Prop :=
  (∀ (s : State) (v : Word) (rest : List HostMove), s.status.busy = false →
    (s.host = .write (.width v) :: rest → ∃ t, step s = .next t ∧
      t = { s with host := rest, img := { s.img with width := v }, pix := [], epoch := t.epoch,
                   status := { s.status with pixvalid := false } }) ∧
    (s.host = .write (.height v) :: rest → ∃ t, step s = .next t ∧
      t = { s with host := rest, img := { s.img with height := v }, pix := [], epoch := t.epoch,
                   status := { s.status with pixvalid := false } })) ∧
  (∀ s t : State, Memory.wf s.pix → s.status.busy = false → exec .pixSet s = .next t →
    s.img.px.toNat < s.img.width.toNat → s.img.py.toNat < s.img.height.toNat →
    (t.status.pixvalid = true ↔ s.status.pixvalid = true ∨
      (sizeOk s.build s.img.width s.img.height ∧
        ∀ a, a < s.img.width.toNat * s.img.height.toNat * 3 → (t.pix.read a).isSome)))

/-- R27, R29 to R33, R76, R81, R270, R272: what each register gives, `STATUS` bit by bit; a read changes nothing but the value
delivered. While a command runs the host sees no value of the error, configuration and pixel registers. That clause is the
model's reading of R81 ("sees nothing but `STATUS` and `STATE`") beside R29 and R33 (`CMD` reads 0, `WIDTH` and `HEIGHT` are read
always): log entry 17 (DEDUCED). -/
def Obligations.RegisterReadsGiveTheirRegisters : Prop :=
  ∀ (s : State) (r : Reg) (rest : List HostMove), s.host = .read r :: rest →
    ∃ v, step s = .next { s with host := rest, value := v } ∧
      if s.status.busy = true ∧ r ∉ [Reg.cmd, .status, .width, .height, .state] then v = .none
      else match r with
      | .cmd => v = .byte 0
      | .status => v = .byte (BitVec.ofNat 8 (s.status.busy.toNat + 2 * s.status.done.toNat +
          4 * s.status.failed.toNat + 8 * s.status.pixvalid.toNat + 16 * s.status.oor.toNat))
      | .errkind => v = .byte s.err.kind
      | .errcause => v = .byte s.err.cause
      | .errType => v = .word s.err.type
      | .errOffset => v = .nat s.err.offset
      | .crcStored => v = .word s.err.crcStored
      | .crcComputed => v = .word s.err.crcComputed
      | .fctl => v = .byte s.cfg.fctl
      | .idatmax => v = .word s.cfg.idatmax
      | .level => v = .byte s.cfg.level
      | .width => v = .word s.img.width
      | .height => v = .word s.img.height
      | .px => v = .word s.img.px
      | .py => v = .word s.img.py
      | .pr => v = .byte s.img.pr
      | .pg => v = .byte s.img.pg
      | .pb => v = .byte s.img.pb
      | .state => v = .byte s.st.code

/-- R32, R33: a write between commands; the values R32 calls illegal change nothing. -/
def Obligations.IdleWritesSetTheirRegisters : Prop :=
  ∀ (s : State) (rest : List HostMove), s.status.busy = false →
    (∀ v, s.host = .write (.fctl v) :: rest → step s = .next
      { s with host := rest, cfg := { s.cfg with fctl := if v.toNat ≤ 5 then v else s.cfg.fctl } }) ∧
    (∀ v, s.host = .write (.idatmax v) :: rest → step s = .next
      { s with host := rest, cfg := { s.cfg with idatmax := if v = 0 then s.cfg.idatmax else v } }) ∧
    (∀ v, s.host = .write (.level v) :: rest → step s = .next
      { s with host := rest, cfg := { s.cfg with level := v } }) ∧
    (∀ v, s.host = .write (.px v) :: rest → step s = .next { s with host := rest, img := { s.img with px := v } }) ∧
    (∀ v, s.host = .write (.py v) :: rest → step s = .next { s with host := rest, img := { s.img with py := v } }) ∧
    (∀ v, s.host = .write (.pr v) :: rest → step s = .next { s with host := rest, img := { s.img with pr := v } }) ∧
    (∀ v, s.host = .write (.pg v) :: rest → step s = .next { s with host := rest, img := { s.img with pg := v } }) ∧
    (∀ v, s.host = .write (.pb v) :: rest → step s = .next { s with host := rest, img := { s.img with pb := v } })

/-! ### Commands -/

/-- R29, R268 (`CMD`), R32 (configuration), R33, R205 (image), U10: while a command runs a write to any register changes nothing.
For `PX`, `PY`, `PR`, `PG`, `PB` and for the registers the host can only read it is the model's reading: log entry 18 (DEDUCED). -/
def Obligations.BusyBlockRefusesEveryWrite : Prop :=
  ∀ (s : State) (w : RegWrite) (rest : List HostMove), s.status.busy = true → s.host = .write w :: rest →
    step s = .next { s with host := rest }

/-- R110: a write of a reserved code changes no state and starts nothing. -/
def Obligations.ReservedCommandsChangeNothing : Prop :=
  (∀ (s : State) (code : Byte), exec (.cmdReserved code) s = .next s) ∧
  (∀ (s : State) (code : Byte) (rest : List HostMove), s.host = .write (.cmd code) :: rest →
    code ≠ 1 → code ≠ 2 → code ≠ 3 → code ≠ 4 → step s = .next { s with host := rest })

/-- R212, R39, R222: when DECODE and ENCODE are accepted, what acceptance re-initialises, and that nothing changes else. -/
def Obligations.AcceptanceReinitialises : Prop :=
  (∀ s : State, s.status.busy = true → exec .decode s = .next s ∧ exec .encode s = .next s) ∧
  (∀ s : State, s.status.pixvalid = false → exec .encode s = .next s) ∧
  (∀ s : State, s.status.busy = false → ∃ m e, exec .decode s = .next { s with
    status := { busy := true, done := false, failed := false, pixvalid := false, oor := s.status.oor }
    err := { kind := 0, cause := 0, type := 0, offset := 0, crcStored := 0, crcComputed := 0 }
    img := { s.img with width := 0, height := 0 }
    rd := { s.rd with pos := 0, seenIhdr := false, seenIend := false }
    zbuf := [], fbuf := [], st := .readSignature, micro := .enter, pix := m, epoch := e }) ∧
  (∀ s : State, s.status.busy = false → s.status.pixvalid = true → exec .encode s = .next { s with
    status := { busy := true, done := false, failed := false, pixvalid := true, oor := s.status.oor }
    err := { kind := 0, cause := 0, type := 0, offset := 0, crcStored := 0, crcComputed := 0 }
    wr := { opos := 0, zpos := 0 }
    fl := { s.fl with fpos := 0 }
    hdr := { s.hdr with w := s.img.width, h := s.img.height }
    zbuf := [], fbuf := [], st := .filterRows, micro := .enter, ports := { s.ports with out := [] } })

/-- R221: the commit, taken as one step when no row is left. -/
def Obligations.CommitInstallsTheImage : Prop :=
  ∀ s : State, s.host = [] → s.st = .defilterRows → s.micro = .row → s.hdr.h.toNat ≤ s.fl.y.toNat →
    step s = .next { s with
      img := { s.img with width := s.hdr.w, height := s.hdr.h }
      status := { s.status with pixvalid := true, busy := false, done := true }
      st := .done, micro := .enter, zbuf := [], fbuf := [] }

/-! ### The step -/

/-- A step runs the operation that is next: the host's first move if it has one (a write to `CMD` is the command its value
decodes to, R109; a read of register 11 or 12 is `PIX.WIDTH` or `PIX.HEIGHT`, R204), else the operation the sequencer fetches,
followed by the sequencer's own advance (R215, R223); inside a row it is the one the row's filter-type byte decodes to (R103). -/
def Obligations.StepRunsTheNextOperation : Prop :=
  (∀ (s : State) (i : Instr), s.host = [] → fetch s = some i → step s = onNext (exec i s) advance) ∧
  (∀ (s : State) (i : Instr) (rest : List HostMove), s.host = .run :: rest → fetch s = some i →
    step s = onNext (exec i { s with host := rest }) advance) ∧
  (∀ (s : State) (v : Byte) (i : Instr) (rest : List HostMove), s.host = .write (.cmd v) :: rest →
    decode .cmd [v] = .ok (i, []) → step s = exec i { s with host := rest }) ∧
  (∀ (s : State) (r : Reg) (n : Nat) (i : Instr) (rest : List HostMove), s.host = .read r :: rest →
    r.number = some n → decode .reg [BitVec.ofNat 8 n] = .ok (i, []) → step s = exec i { s with host := rest }) ∧
  (∀ (s : State) (i : Instr), s.st = .defilterRows → s.micro = .bytes → s.fl.i < 3 * s.hdr.w.toNat →
    decode .rowIn [s.fl.ft] = .ok (i, []) → fetch s = some i) ∧
  (∀ (s : State) (i : Instr), s.st = .filterRows → s.micro = .bytes → s.fl.i < 3 * s.hdr.w.toNat →
    decode .rowOut [s.fl.ft] = .ok (i, []) → fetch s = some i) ∧
  (∀ s : State, s.st = .readSignature → fetch s = some .rdSig) ∧
  (∀ s : State, s.st = .readIHDR ∨ (s.st = .collectDataChunks ∧ s.rd.seenIend = false) → fetch s = some .rdChunk)

/-- R215, R223, R225: the block only moves along the two state diagrams, or into `Failed` while a command runs; it stays in
`Start`, `Done` and `Failed`; `FilterRows` cannot fail. -/
def Obligations.StatesFollowTheDiagrams : Prop :=
  ∀ s t : State, s.host = [] → step s = .next t →
    (t.st = s.st ∨ s.st.next? = some t.st ∨ (s.st.running = true ∧ t.st = .failed)) ∧
    (s.st.running = false → t = s) ∧
    (s.st = .filterRows → t.st ≠ .failed)

/-- R240, R236: what a step into `Failed` leaves, whichever operation raised. -/
def Obligations.FailureReportsAndStops : Prop :=
  ∀ s t : State, s.host = [] → s.st ≠ .failed → step s = .next t → t.st = .failed →
    1 ≤ t.err.kind.toNat ∧ t.err.kind.toNat ≤ 5 ∧ 1 ≤ t.err.cause.toNat ∧
    t.status = { s.status with busy := false, failed := true } ∧ t.zbuf = [] ∧ t.fbuf = [] ∧
    t.img = s.img ∧ t.pix = s.pix ∧ t.cfg = s.cfg ∧
    (t.err.kind = 3 → t.err.cause = 1 ∧ t.err.crcStored = t.rd.crcrx ∧
      t.err.crcComputed = t.crcacc ^^^ 0xFFFFFFFF ∧ t.err.crcStored ≠ t.err.crcComputed) ∧
    (t.err.kind ≠ 3 → t.err.crcStored = 0 ∧ t.err.crcComputed = 0)

/-- R244, R242: the report stays until the next DECODE or ENCODE is accepted, or a reset. -/
def Obligations.ReportStaysUntilTheNextCommand : Prop :=
  ∀ s t : State, s.st = .failed → step s = .next t →
    (t.st = .failed ∧ t.err = s.err) ∨
    ((t.st = .readSignature ∨ t.st = .filterRows ∨ t.st = .start) ∧ t.err = noReport)

/-- R26, R62, R85, R211, R272: what no step of the block changes: the configuration, the host's arguments and the input;
`OUT` only grows and `OPOS` counts it; `POS` never moves backwards; DECODE writes nothing to `OUT`, ENCODE nothing to the
image. -/
def Obligations.BlockStepsKeepTheHostsState : Prop :=
  ∀ s t : State, s.host = [] → step s = .next t →
    t.host = [] ∧ t.cfg = s.cfg ∧ t.build = s.build ∧ t.status.oor = s.status.oor ∧
    (t.img.px, t.img.py, t.img.pr, t.img.pg, t.img.pb) = (s.img.px, s.img.py, s.img.pr, s.img.pg, s.img.pb) ∧
    t.ports.inp = s.ports.inp ∧ t.ports.inFail = s.ports.inFail ∧ t.ports.outFail = s.ports.outFail ∧
    (∃ v, t.ports.out = s.ports.out ++ v ∧ (t.st ≠ .failed → t.wr.opos = s.wr.opos + v.length)) ∧
    (s.st ≠ .readSignature → s.rd.pos ≤ t.rd.pos) ∧
    (s.st.decoding = true → t.ports.out = s.ports.out) ∧
    (s.st.encoding = true → t.pix = s.pix ∧ t.img = s.img ∧ t.status.pixvalid = s.status.pixvalid)

/-- R32, R264: DECODE ignores the configuration registers: runs that differ in them only go on differing in them only. -/
def Obligations.DecodeIgnoresTheConfiguration : Prop :=
  ∀ (s : State) (c : HostCfg), s.host = [] → s.st.decoding = true →
    step { s with cfg := c } = onNext (step s) fun t => { t with cfg := c }

/-- The stops of the model, each by its name. They guard addresses the spec does not give (R65, R60, R137), a value no write
can install (R32), an operand R152 excludes, and streams changed while a command runs (R269) (log entries 12 to 14, 3). -/
def Obligations.StopsAreNamed : Prop :=
  (∀ (s : State) (t : FilterType), 3 * s.hdr.w.toNat ≤ s.fl.i →
    exec (reconOf t) s = .fault .lineBufferAddress ∧ exec (filtOf t) s = .fault .lineBufferAddress) ∧
  (∀ (s : State) (t : FilterType), s.fl.i < 3 * s.hdr.w.toNat → s.fbuf.length ≤ s.fl.fpos + 1 + s.fl.i →
    exec (reconOf t) s = .fault .fStreamAddress) ∧
  (∀ (s : State) (payload : List Byte), s.rd.len = 13 → payload.length ≠ 13 →
    exec (.chunkIhdr payload) s = .fault .payloadAddress) ∧
  (∀ s : State, s.zbuf ≠ [] → s.cfg.idatmax = 0 → exec .emitIdat s = .fault .idatNoProgress) ∧
  (∀ (s : State) (type : Word) (payload : List Byte), 2 ^ 32 ≤ payload.length →
    exec (.wrChunk type payload) s = .refused .payloadTooLong) ∧
  (∀ (s : State) (bs : List Byte) (k : Option Nat) (rest : List HostMove), s.status.busy = true →
    (s.host = .input bs k :: rest → step s = .refused .inputChangedWhileBusy) ∧
    (s.host = .output k :: rest → step s = .refused .outputChangedWhileBusy))

/-! ### Invariants -/

/-- The invariant holds at reset. -/
def Obligations.ResetMeetsTheInvariant : Prop := Inv State.reset

/-- R207 ("Every operation that leaves `PIXVALID = 1` keeps them"), R30, R31, R32, R26, R64, R81, R222: every step, of the
block or of the host, keeps the invariant. -/
def Obligations.EveryStepKeepsTheInvariant : Prop :=
  ∀ s t : State, Inv s → step s = .next t → Inv t

/-- From a state that meets the invariant no step faults, and none is refused but a change of a stream while a command runs. -/
def Obligations.InvariantStepsNeverStop : Prop :=
  ∀ s : State, Inv s →
    (∃ t, step s = .next t) ∨
    (s.status.busy = true ∧ ∃ rest,
      (∃ bs k, s.host = .input bs k :: rest ∧ step s = .refused .inputChangedWhileBusy) ∨
      (∃ k, s.host = .output k :: rest ∧ step s = .refused .outputChangedWhileBusy))

/-- R241: after a DECODE that ended in `Failed` there is no image: every accessor is out of range, ENCODE is refused. -/
def Obligations.FailedDecodeLeavesNoImage : Prop :=
  ∀ s t : State, Inv s → s.host = [] → s.st.decoding = true → step s = .next t → t.st = .failed →
    t.img.width = 0 ∧ t.img.height = 0 ∧ t.status.pixvalid = false ∧ exec .encode t = .next t ∧
    ∀ x y : Word,
      let u : State := { t with img := { t.img with px := x, py := y } }
      exec .pixGet u = .next { u with status := { u.status with oor := true } } ∧
      exec .pixSet u = .next { u with status := { u.status with oor := true } }

/-- R214, R281: every command ends. -/
def Obligations.EveryCommandEnds : Prop :=
  ∀ s : State, Inv s → s.host = [] → s.status.busy = true →
    ∃ n t, stepN n s = .next t ∧ t.ended ∧ t.status.busy = false

/-! ### The two commands as functions -/

/-- R18, R226, R221, R240, for a port that works: the run that DECODE starts ends with the image of the function, or with its error
and the whole context of that error: kind, cause, chunk type, offset, stored and computed checksum. -/
def Obligations.DecodeRunIsTheFunction : Prop :=
  ∀ s : State, s.host = [] → s.status.busy = false → s.ports.inFail = none →
    ∃ s1 n t, exec .decode s = .next s1 ∧ stepN n s1 = .next t ∧ t.status.busy = false ∧
      match decodeFun Config.inflate s.build s.ports.inp with
      | .ok (w, h, data) => t.st = .done ∧ t.err = noReport ∧ t.holdsImage w h data
      | .error r => t.st = .failed ∧ t.err = r ∧ t.img.width = 0 ∧ t.img.height = 0 ∧ t.status.pixvalid = false

/-- R18, R228, for a port that works: the run that ENCODE starts on an image ends with the file of the function in `OUT`, or
with its error and the whole context of it and `OUT` empty (R243); the image is kept (R211). -/
def Obligations.EncodeRunIsTheFunction : Prop :=
  ∀ (s : State) (w h : Word) (data : List Byte), s.host = [] → s.status.busy = false → s.ports.outFail = none →
    s.cfg.idatmax ≠ 0 → s.holdsImage w h data →
    ∃ s1 n t, exec .encode s = .next s1 ∧ stepN n s1 = .next t ∧ t.status.busy = false ∧ t.holdsImage w h data ∧
      match encodeFun Config.deflate s.cfg w h data with
      | .ok bytes => t.st = .done ∧ t.err = noReport ∧ t.ports.out = bytes
      | .error r => t.st = .failed ∧ t.err = r ∧ t.ports.out = []

/-- R227: decoding what was encoded gives the image back, for every filter choice, cut of the stream and level, under the law
of the adapter (R163). -/
def Obligations.RoundTripGivesTheImageBack : Prop :=
  ∀ (inflate : Inflate) (deflate : Deflate) (b : Build) (cfg : HostCfg) (w h : Word) (data bytes : List Byte),
    AdapterInverse inflate deflate → sizeOk b w h → 13 ≤ b.maxLen.toNat →
    cfg.idatmax ≠ 0 → cfg.idatmax.toNat ≤ b.maxLen.toNat → data.length = w.toNat * h.toNat * 3 →
    encodeFun deflate cfg w h data = .ok bytes → decodeFun inflate b bytes = .ok (w, h, data)

/-- R164, R138, R139, R140, R229: what DECODE answers depends on the header and on the concatenation of the IDAT payloads
only: not on how they are cut, not on other chunks between them, not on what follows IEND. -/
def Obligations.ChunkLayoutDoesNotMatter : Prop :=
  ∀ (inflate : Inflate) (b : Build) (w h : Word) (cs ds : List (Word × List Byte)) (tail tail' : List Byte),
    (∀ c ∈ cs, middleChunk b c) → (∀ c ∈ ds, middleChunk b c) → idatPayloads cs = idatPayloads ds →
    let file (cs : List (Word × List Byte)) (tail : List Byte) :=
      signature ++ chunkBytes typeIHDR (ihdrPayload w h) ++ chunksBytes cs ++ chunkBytes typeIEND [] ++ tail
    decodeFun inflate b (file cs tail) = decodeFun inflate b (file ds tail') ∧
    (13 ≤ b.maxLen.toNat → sizeOk b w h →
      decodeFun inflate b (file cs tail) = decodeImage inflate w h (idatPayloads cs))

end
end

