-- ==== Sys2Proof/Laws/State.lean ====
section
/-! SUPPORT. The named updates of State, field by field: one lemma for each field of each update, so that no proof unfolds a
record update. -/

namespace Sys2Proof.Machine

variable (s : State)

/-! ### goto -/

@[simp] theorem goto_crcacc (t : SeqState) : (s.goto t).crcacc = s.crcacc := rfl
@[simp] theorem goto_rd (t : SeqState) : (s.goto t).rd = s.rd := rfl
@[simp] theorem goto_hdr (t : SeqState) : (s.goto t).hdr = s.hdr := rfl
@[simp] theorem goto_fl (t : SeqState) : (s.goto t).fl = s.fl := rfl
@[simp] theorem goto_wr (t : SeqState) : (s.goto t).wr = s.wr := rfl
@[simp] theorem goto_st (t : SeqState) : (s.goto t).st = t := rfl
@[simp] theorem goto_status (t : SeqState) : (s.goto t).status = s.status := rfl
@[simp] theorem goto_err (t : SeqState) : (s.goto t).err = s.err := rfl
@[simp] theorem goto_cfg (t : SeqState) : (s.goto t).cfg = s.cfg := rfl
@[simp] theorem goto_img (t : SeqState) : (s.goto t).img = s.img := rfl
@[simp] theorem goto_prev (t : SeqState) : (s.goto t).prev = s.prev := rfl
@[simp] theorem goto_cur (t : SeqState) : (s.goto t).cur = s.cur := rfl
@[simp] theorem goto_zbuf (t : SeqState) : (s.goto t).zbuf = s.zbuf := rfl
@[simp] theorem goto_fbuf (t : SeqState) : (s.goto t).fbuf = s.fbuf := rfl
@[simp] theorem goto_pix (t : SeqState) : (s.goto t).pix = s.pix := rfl
@[simp] theorem goto_ports (t : SeqState) : (s.goto t).ports = s.ports := rfl
@[simp] theorem goto_host (t : SeqState) : (s.goto t).host = s.host := rfl
@[simp] theorem goto_micro (t : SeqState) : (s.goto t).micro = .enter := rfl
@[simp] theorem goto_value (t : SeqState) : (s.goto t).value = s.value := rfl
@[simp] theorem goto_epoch (t : SeqState) : (s.goto t).epoch = s.epoch := rfl
@[simp] theorem goto_fresh (t : SeqState) : (s.goto t).fresh = s.fresh := rfl
@[simp] theorem goto_build (t : SeqState) : (s.goto t).build = s.build := rfl

/-! ### finish -/

@[simp] theorem finish_crcacc : (s.finish).crcacc = s.crcacc := rfl
@[simp] theorem finish_rd : (s.finish).rd = s.rd := rfl
@[simp] theorem finish_hdr : (s.finish).hdr = s.hdr := rfl
@[simp] theorem finish_fl : (s.finish).fl = s.fl := rfl
@[simp] theorem finish_wr : (s.finish).wr = s.wr := rfl
@[simp] theorem finish_st : (s.finish).st = .done := rfl
@[simp] theorem finish_status : (s.finish).status = { s.status with busy := false, done := true } := rfl
@[simp] theorem finish_err : (s.finish).err = s.err := rfl
@[simp] theorem finish_cfg : (s.finish).cfg = s.cfg := rfl
@[simp] theorem finish_img : (s.finish).img = s.img := rfl
@[simp] theorem finish_prev : (s.finish).prev = s.prev := rfl
@[simp] theorem finish_cur : (s.finish).cur = s.cur := rfl
@[simp] theorem finish_zbuf : (s.finish).zbuf = [] := rfl
@[simp] theorem finish_fbuf : (s.finish).fbuf = [] := rfl
@[simp] theorem finish_pix : (s.finish).pix = s.pix := rfl
@[simp] theorem finish_ports : (s.finish).ports = s.ports := rfl
@[simp] theorem finish_host : (s.finish).host = s.host := rfl
@[simp] theorem finish_micro : (s.finish).micro = .enter := rfl
@[simp] theorem finish_value : (s.finish).value = s.value := rfl
@[simp] theorem finish_epoch : (s.finish).epoch = s.epoch := rfl
@[simp] theorem finish_fresh : (s.finish).fresh = s.fresh := rfl
@[simp] theorem finish_build : (s.finish).build = s.build := rfl

/-! ### commit -/

@[simp] theorem commit_crcacc : (s.commit).crcacc = s.crcacc := rfl
@[simp] theorem commit_rd : (s.commit).rd = s.rd := rfl
@[simp] theorem commit_hdr : (s.commit).hdr = s.hdr := rfl
@[simp] theorem commit_fl : (s.commit).fl = s.fl := rfl
@[simp] theorem commit_wr : (s.commit).wr = s.wr := rfl
@[simp] theorem commit_st : (s.commit).st = .done := rfl
@[simp] theorem commit_status : (s.commit).status = { s.status with busy := false, done := true, pixvalid := true } := rfl
@[simp] theorem commit_err : (s.commit).err = s.err := rfl
@[simp] theorem commit_cfg : (s.commit).cfg = s.cfg := rfl
@[simp] theorem commit_img : (s.commit).img = { s.img with width := s.hdr.w, height := s.hdr.h } := rfl
@[simp] theorem commit_prev : (s.commit).prev = s.prev := rfl
@[simp] theorem commit_cur : (s.commit).cur = s.cur := rfl
@[simp] theorem commit_zbuf : (s.commit).zbuf = [] := rfl
@[simp] theorem commit_fbuf : (s.commit).fbuf = [] := rfl
@[simp] theorem commit_pix : (s.commit).pix = s.pix := rfl
@[simp] theorem commit_ports : (s.commit).ports = s.ports := rfl
@[simp] theorem commit_host : (s.commit).host = s.host := rfl
@[simp] theorem commit_micro : (s.commit).micro = .enter := rfl
@[simp] theorem commit_value : (s.commit).value = s.value := rfl
@[simp] theorem commit_epoch : (s.commit).epoch = s.epoch := rfl
@[simp] theorem commit_fresh : (s.commit).fresh = s.fresh := rfl
@[simp] theorem commit_build : (s.commit).build = s.build := rfl

/-! ### raise -/

@[simp] theorem raise_crcacc (c : Cause) : (raise c s).crcacc = s.crcacc := rfl
@[simp] theorem raise_rd (c : Cause) : (raise c s).rd = s.rd := rfl
@[simp] theorem raise_hdr (c : Cause) : (raise c s).hdr = s.hdr := rfl
@[simp] theorem raise_fl (c : Cause) : (raise c s).fl = s.fl := rfl
@[simp] theorem raise_wr (c : Cause) : (raise c s).wr = s.wr := rfl
@[simp] theorem raise_st (c : Cause) : (raise c s).st = .failed := rfl
@[simp] theorem raise_status (c : Cause) : (raise c s).status = { s.status with busy := false, failed := true } := rfl
@[simp] theorem raise_err (c : Cause) : (raise c s).err = c.report s := rfl
@[simp] theorem raise_cfg (c : Cause) : (raise c s).cfg = s.cfg := rfl
@[simp] theorem raise_img (c : Cause) : (raise c s).img = s.img := rfl
@[simp] theorem raise_prev (c : Cause) : (raise c s).prev = s.prev := rfl
@[simp] theorem raise_cur (c : Cause) : (raise c s).cur = s.cur := rfl
@[simp] theorem raise_zbuf (c : Cause) : (raise c s).zbuf = [] := rfl
@[simp] theorem raise_fbuf (c : Cause) : (raise c s).fbuf = [] := rfl
@[simp] theorem raise_pix (c : Cause) : (raise c s).pix = s.pix := rfl
@[simp] theorem raise_ports (c : Cause) : (raise c s).ports = s.ports := rfl
@[simp] theorem raise_host (c : Cause) : (raise c s).host = s.host := rfl
@[simp] theorem raise_micro (c : Cause) : (raise c s).micro = .enter := rfl
@[simp] theorem raise_value (c : Cause) : (raise c s).value = s.value := rfl
@[simp] theorem raise_epoch (c : Cause) : (raise c s).epoch = s.epoch := rfl
@[simp] theorem raise_fresh (c : Cause) : (raise c s).fresh = s.fresh := rfl
@[simp] theorem raise_build (c : Cause) : (raise c s).build = s.build := rfl

/-! ### setOor -/

@[simp] theorem setOor_crcacc (b : Bool) : (s.setOor b).crcacc = s.crcacc := rfl
@[simp] theorem setOor_rd (b : Bool) : (s.setOor b).rd = s.rd := rfl
@[simp] theorem setOor_hdr (b : Bool) : (s.setOor b).hdr = s.hdr := rfl
@[simp] theorem setOor_fl (b : Bool) : (s.setOor b).fl = s.fl := rfl
@[simp] theorem setOor_wr (b : Bool) : (s.setOor b).wr = s.wr := rfl
@[simp] theorem setOor_st (b : Bool) : (s.setOor b).st = s.st := rfl
@[simp] theorem setOor_status (b : Bool) : (s.setOor b).status = { s.status with oor := b } := rfl
@[simp] theorem setOor_err (b : Bool) : (s.setOor b).err = s.err := rfl
@[simp] theorem setOor_cfg (b : Bool) : (s.setOor b).cfg = s.cfg := rfl
@[simp] theorem setOor_img (b : Bool) : (s.setOor b).img = s.img := rfl
@[simp] theorem setOor_prev (b : Bool) : (s.setOor b).prev = s.prev := rfl
@[simp] theorem setOor_cur (b : Bool) : (s.setOor b).cur = s.cur := rfl
@[simp] theorem setOor_zbuf (b : Bool) : (s.setOor b).zbuf = s.zbuf := rfl
@[simp] theorem setOor_fbuf (b : Bool) : (s.setOor b).fbuf = s.fbuf := rfl
@[simp] theorem setOor_pix (b : Bool) : (s.setOor b).pix = s.pix := rfl
@[simp] theorem setOor_ports (b : Bool) : (s.setOor b).ports = s.ports := rfl
@[simp] theorem setOor_host (b : Bool) : (s.setOor b).host = s.host := rfl
@[simp] theorem setOor_micro (b : Bool) : (s.setOor b).micro = s.micro := rfl
@[simp] theorem setOor_value (b : Bool) : (s.setOor b).value = s.value := rfl
@[simp] theorem setOor_epoch (b : Bool) : (s.setOor b).epoch = s.epoch := rfl
@[simp] theorem setOor_fresh (b : Bool) : (s.setOor b).fresh = s.fresh := rfl
@[simp] theorem setOor_build (b : Bool) : (s.setOor b).build = s.build := rfl

/-! ### updatePixvalid -/

@[simp] theorem updatePixvalid_crcacc : (s.updatePixvalid).crcacc = s.crcacc := rfl
@[simp] theorem updatePixvalid_rd : (s.updatePixvalid).rd = s.rd := rfl
@[simp] theorem updatePixvalid_hdr : (s.updatePixvalid).hdr = s.hdr := rfl
@[simp] theorem updatePixvalid_fl : (s.updatePixvalid).fl = s.fl := rfl
@[simp] theorem updatePixvalid_wr : (s.updatePixvalid).wr = s.wr := rfl
@[simp] theorem updatePixvalid_st : (s.updatePixvalid).st = s.st := rfl
@[simp] theorem updatePixvalid_status : (s.updatePixvalid).status = { s.status with pixvalid := s.status.pixvalid || s.imageComplete } := rfl
@[simp] theorem updatePixvalid_err : (s.updatePixvalid).err = s.err := rfl
@[simp] theorem updatePixvalid_cfg : (s.updatePixvalid).cfg = s.cfg := rfl
@[simp] theorem updatePixvalid_img : (s.updatePixvalid).img = s.img := rfl
@[simp] theorem updatePixvalid_prev : (s.updatePixvalid).prev = s.prev := rfl
@[simp] theorem updatePixvalid_cur : (s.updatePixvalid).cur = s.cur := rfl
@[simp] theorem updatePixvalid_zbuf : (s.updatePixvalid).zbuf = s.zbuf := rfl
@[simp] theorem updatePixvalid_fbuf : (s.updatePixvalid).fbuf = s.fbuf := rfl
@[simp] theorem updatePixvalid_pix : (s.updatePixvalid).pix = s.pix := rfl
@[simp] theorem updatePixvalid_ports : (s.updatePixvalid).ports = s.ports := rfl
@[simp] theorem updatePixvalid_host : (s.updatePixvalid).host = s.host := rfl
@[simp] theorem updatePixvalid_micro : (s.updatePixvalid).micro = s.micro := rfl
@[simp] theorem updatePixvalid_value : (s.updatePixvalid).value = s.value := rfl
@[simp] theorem updatePixvalid_epoch : (s.updatePixvalid).epoch = s.epoch := rfl
@[simp] theorem updatePixvalid_fresh : (s.updatePixvalid).fresh = s.fresh := rfl
@[simp] theorem updatePixvalid_build : (s.updatePixvalid).build = s.build := rfl

/-! ### dropPixels -/

@[simp] theorem dropPixels_crcacc : (s.dropPixels).crcacc = s.crcacc := rfl
@[simp] theorem dropPixels_rd : (s.dropPixels).rd = s.rd := rfl
@[simp] theorem dropPixels_hdr : (s.dropPixels).hdr = s.hdr := rfl
@[simp] theorem dropPixels_fl : (s.dropPixels).fl = s.fl := rfl
@[simp] theorem dropPixels_wr : (s.dropPixels).wr = s.wr := rfl
@[simp] theorem dropPixels_st : (s.dropPixels).st = s.st := rfl
@[simp] theorem dropPixels_status : (s.dropPixels).status = s.status := rfl
@[simp] theorem dropPixels_err : (s.dropPixels).err = s.err := rfl
@[simp] theorem dropPixels_cfg : (s.dropPixels).cfg = s.cfg := rfl
@[simp] theorem dropPixels_img : (s.dropPixels).img = s.img := rfl
@[simp] theorem dropPixels_prev : (s.dropPixels).prev = s.prev := rfl
@[simp] theorem dropPixels_cur : (s.dropPixels).cur = s.cur := rfl
@[simp] theorem dropPixels_zbuf : (s.dropPixels).zbuf = s.zbuf := rfl
@[simp] theorem dropPixels_fbuf : (s.dropPixels).fbuf = s.fbuf := rfl
@[simp] theorem dropPixels_pix : (s.dropPixels).pix = [] := rfl
@[simp] theorem dropPixels_ports : (s.dropPixels).ports = s.ports := rfl
@[simp] theorem dropPixels_host : (s.dropPixels).host = s.host := rfl
@[simp] theorem dropPixels_micro : (s.dropPixels).micro = s.micro := rfl
@[simp] theorem dropPixels_value : (s.dropPixels).value = s.value := rfl
@[simp] theorem dropPixels_epoch : (s.dropPixels).epoch = s.epoch + 1 := rfl
@[simp] theorem dropPixels_fresh : (s.dropPixels).fresh = s.fresh := rfl
@[simp] theorem dropPixels_build : (s.dropPixels).build = s.build := rfl

/-! ### dropImage -/

@[simp] theorem dropImage_crcacc : (s.dropImage).crcacc = s.crcacc := rfl
@[simp] theorem dropImage_rd : (s.dropImage).rd = s.rd := rfl
@[simp] theorem dropImage_hdr : (s.dropImage).hdr = s.hdr := rfl
@[simp] theorem dropImage_fl : (s.dropImage).fl = s.fl := rfl
@[simp] theorem dropImage_wr : (s.dropImage).wr = s.wr := rfl
@[simp] theorem dropImage_st : (s.dropImage).st = s.st := rfl
@[simp] theorem dropImage_status : (s.dropImage).status = { s.status with pixvalid := false } := rfl
@[simp] theorem dropImage_err : (s.dropImage).err = s.err := rfl
@[simp] theorem dropImage_cfg : (s.dropImage).cfg = s.cfg := rfl
@[simp] theorem dropImage_img : (s.dropImage).img = s.img := rfl
@[simp] theorem dropImage_prev : (s.dropImage).prev = s.prev := rfl
@[simp] theorem dropImage_cur : (s.dropImage).cur = s.cur := rfl
@[simp] theorem dropImage_zbuf : (s.dropImage).zbuf = s.zbuf := rfl
@[simp] theorem dropImage_fbuf : (s.dropImage).fbuf = s.fbuf := rfl
@[simp] theorem dropImage_pix : (s.dropImage).pix = [] := rfl
@[simp] theorem dropImage_ports : (s.dropImage).ports = s.ports := rfl
@[simp] theorem dropImage_host : (s.dropImage).host = s.host := rfl
@[simp] theorem dropImage_micro : (s.dropImage).micro = s.micro := rfl
@[simp] theorem dropImage_value : (s.dropImage).value = s.value := rfl
@[simp] theorem dropImage_epoch : (s.dropImage).epoch = s.epoch + 1 := rfl
@[simp] theorem dropImage_fresh : (s.dropImage).fresh = s.fresh := rfl
@[simp] theorem dropImage_build : (s.dropImage).build = s.build := rfl

/-! ### setCur -/

@[simp] theorem setCur_crcacc (k : Nat) (v : Byte) : (s.setCur k v).crcacc = s.crcacc := rfl
@[simp] theorem setCur_rd (k : Nat) (v : Byte) : (s.setCur k v).rd = s.rd := rfl
@[simp] theorem setCur_hdr (k : Nat) (v : Byte) : (s.setCur k v).hdr = s.hdr := rfl
@[simp] theorem setCur_fl (k : Nat) (v : Byte) : (s.setCur k v).fl = s.fl := rfl
@[simp] theorem setCur_wr (k : Nat) (v : Byte) : (s.setCur k v).wr = s.wr := rfl
@[simp] theorem setCur_st (k : Nat) (v : Byte) : (s.setCur k v).st = s.st := rfl
@[simp] theorem setCur_status (k : Nat) (v : Byte) : (s.setCur k v).status = s.status := rfl
@[simp] theorem setCur_err (k : Nat) (v : Byte) : (s.setCur k v).err = s.err := rfl
@[simp] theorem setCur_cfg (k : Nat) (v : Byte) : (s.setCur k v).cfg = s.cfg := rfl
@[simp] theorem setCur_img (k : Nat) (v : Byte) : (s.setCur k v).img = s.img := rfl
@[simp] theorem setCur_prev (k : Nat) (v : Byte) : (s.setCur k v).prev = s.prev := rfl
@[simp] theorem setCur_cur (k : Nat) (v : Byte) : (s.setCur k v).cur = lineWrite (Config.freeCur s.epoch) s.cur k v := rfl
@[simp] theorem setCur_zbuf (k : Nat) (v : Byte) : (s.setCur k v).zbuf = s.zbuf := rfl
@[simp] theorem setCur_fbuf (k : Nat) (v : Byte) : (s.setCur k v).fbuf = s.fbuf := rfl
@[simp] theorem setCur_pix (k : Nat) (v : Byte) : (s.setCur k v).pix = s.pix := rfl
@[simp] theorem setCur_ports (k : Nat) (v : Byte) : (s.setCur k v).ports = s.ports := rfl
@[simp] theorem setCur_host (k : Nat) (v : Byte) : (s.setCur k v).host = s.host := rfl
@[simp] theorem setCur_micro (k : Nat) (v : Byte) : (s.setCur k v).micro = s.micro := rfl
@[simp] theorem setCur_value (k : Nat) (v : Byte) : (s.setCur k v).value = s.value := rfl
@[simp] theorem setCur_epoch (k : Nat) (v : Byte) : (s.setCur k v).epoch = s.epoch := rfl
@[simp] theorem setCur_fresh (k : Nat) (v : Byte) : (s.setCur k v).fresh = s.fresh := rfl
@[simp] theorem setCur_build (k : Nat) (v : Byte) : (s.setCur k v).build = s.build := rfl

/-! ### zeroPrev -/

@[simp] theorem zeroPrev_crcacc (n : Nat) : (s.zeroPrev n).crcacc = s.crcacc := rfl
@[simp] theorem zeroPrev_rd (n : Nat) : (s.zeroPrev n).rd = s.rd := rfl
@[simp] theorem zeroPrev_hdr (n : Nat) : (s.zeroPrev n).hdr = s.hdr := rfl
@[simp] theorem zeroPrev_fl (n : Nat) : (s.zeroPrev n).fl = s.fl := rfl
@[simp] theorem zeroPrev_wr (n : Nat) : (s.zeroPrev n).wr = s.wr := rfl
@[simp] theorem zeroPrev_st (n : Nat) : (s.zeroPrev n).st = s.st := rfl
@[simp] theorem zeroPrev_status (n : Nat) : (s.zeroPrev n).status = s.status := rfl
@[simp] theorem zeroPrev_err (n : Nat) : (s.zeroPrev n).err = s.err := rfl
@[simp] theorem zeroPrev_cfg (n : Nat) : (s.zeroPrev n).cfg = s.cfg := rfl
@[simp] theorem zeroPrev_img (n : Nat) : (s.zeroPrev n).img = s.img := rfl
@[simp] theorem zeroPrev_prev (n : Nat) : (s.zeroPrev n).prev = List.replicate n 0 ++ s.prev.drop n := rfl
@[simp] theorem zeroPrev_cur (n : Nat) : (s.zeroPrev n).cur = s.cur := rfl
@[simp] theorem zeroPrev_zbuf (n : Nat) : (s.zeroPrev n).zbuf = s.zbuf := rfl
@[simp] theorem zeroPrev_fbuf (n : Nat) : (s.zeroPrev n).fbuf = s.fbuf := rfl
@[simp] theorem zeroPrev_pix (n : Nat) : (s.zeroPrev n).pix = s.pix := rfl
@[simp] theorem zeroPrev_ports (n : Nat) : (s.zeroPrev n).ports = s.ports := rfl
@[simp] theorem zeroPrev_host (n : Nat) : (s.zeroPrev n).host = s.host := rfl
@[simp] theorem zeroPrev_micro (n : Nat) : (s.zeroPrev n).micro = s.micro := rfl
@[simp] theorem zeroPrev_value (n : Nat) : (s.zeroPrev n).value = s.value := rfl
@[simp] theorem zeroPrev_epoch (n : Nat) : (s.zeroPrev n).epoch = s.epoch := rfl
@[simp] theorem zeroPrev_fresh (n : Nat) : (s.zeroPrev n).fresh = s.fresh := rfl
@[simp] theorem zeroPrev_build (n : Nat) : (s.zeroPrev n).build = s.build := rfl

/-! ### copyRow -/

@[simp] theorem copyRow_crcacc (n : Nat) : (s.copyRow n).crcacc = s.crcacc := rfl
@[simp] theorem copyRow_rd (n : Nat) : (s.copyRow n).rd = s.rd := rfl
@[simp] theorem copyRow_hdr (n : Nat) : (s.copyRow n).hdr = s.hdr := rfl
@[simp] theorem copyRow_fl (n : Nat) : (s.copyRow n).fl = s.fl := rfl
@[simp] theorem copyRow_wr (n : Nat) : (s.copyRow n).wr = s.wr := rfl
@[simp] theorem copyRow_st (n : Nat) : (s.copyRow n).st = s.st := rfl
@[simp] theorem copyRow_status (n : Nat) : (s.copyRow n).status = s.status := rfl
@[simp] theorem copyRow_err (n : Nat) : (s.copyRow n).err = s.err := rfl
@[simp] theorem copyRow_cfg (n : Nat) : (s.copyRow n).cfg = s.cfg := rfl
@[simp] theorem copyRow_img (n : Nat) : (s.copyRow n).img = s.img := rfl
@[simp] theorem copyRow_prev (n : Nat) : (s.copyRow n).prev = s.curCells n ++ s.prev.drop n := rfl
@[simp] theorem copyRow_cur (n : Nat) : (s.copyRow n).cur = s.cur := rfl
@[simp] theorem copyRow_zbuf (n : Nat) : (s.copyRow n).zbuf = s.zbuf := rfl
@[simp] theorem copyRow_fbuf (n : Nat) : (s.copyRow n).fbuf = s.fbuf := rfl
@[simp] theorem copyRow_pix (n : Nat) : (s.copyRow n).pix = s.pix := rfl
@[simp] theorem copyRow_ports (n : Nat) : (s.copyRow n).ports = s.ports := rfl
@[simp] theorem copyRow_host (n : Nat) : (s.copyRow n).host = s.host := rfl
@[simp] theorem copyRow_micro (n : Nat) : (s.copyRow n).micro = s.micro := rfl
@[simp] theorem copyRow_value (n : Nat) : (s.copyRow n).value = s.value := rfl
@[simp] theorem copyRow_epoch (n : Nat) : (s.copyRow n).epoch = s.epoch := rfl
@[simp] theorem copyRow_fresh (n : Nat) : (s.copyRow n).fresh = s.fresh := rfl
@[simp] theorem copyRow_build (n : Nat) : (s.copyRow n).build = s.build := rfl

/-! ### crcOver -/

@[simp] theorem crcOver_crcacc (t : Word) (pl : List Byte) : (crcOver t pl s).crcacc = crcBytes crcInitial (enc32 t ++ pl) := rfl
@[simp] theorem crcOver_rd (t : Word) (pl : List Byte) : (crcOver t pl s).rd = s.rd := rfl
@[simp] theorem crcOver_hdr (t : Word) (pl : List Byte) : (crcOver t pl s).hdr = s.hdr := rfl
@[simp] theorem crcOver_fl (t : Word) (pl : List Byte) : (crcOver t pl s).fl = s.fl := rfl
@[simp] theorem crcOver_wr (t : Word) (pl : List Byte) : (crcOver t pl s).wr = s.wr := rfl
@[simp] theorem crcOver_st (t : Word) (pl : List Byte) : (crcOver t pl s).st = s.st := rfl
@[simp] theorem crcOver_status (t : Word) (pl : List Byte) : (crcOver t pl s).status = s.status := rfl
@[simp] theorem crcOver_err (t : Word) (pl : List Byte) : (crcOver t pl s).err = s.err := rfl
@[simp] theorem crcOver_cfg (t : Word) (pl : List Byte) : (crcOver t pl s).cfg = s.cfg := rfl
@[simp] theorem crcOver_img (t : Word) (pl : List Byte) : (crcOver t pl s).img = s.img := rfl
@[simp] theorem crcOver_prev (t : Word) (pl : List Byte) : (crcOver t pl s).prev = s.prev := rfl
@[simp] theorem crcOver_cur (t : Word) (pl : List Byte) : (crcOver t pl s).cur = s.cur := rfl
@[simp] theorem crcOver_zbuf (t : Word) (pl : List Byte) : (crcOver t pl s).zbuf = s.zbuf := rfl
@[simp] theorem crcOver_fbuf (t : Word) (pl : List Byte) : (crcOver t pl s).fbuf = s.fbuf := rfl
@[simp] theorem crcOver_pix (t : Word) (pl : List Byte) : (crcOver t pl s).pix = s.pix := rfl
@[simp] theorem crcOver_ports (t : Word) (pl : List Byte) : (crcOver t pl s).ports = s.ports := rfl
@[simp] theorem crcOver_host (t : Word) (pl : List Byte) : (crcOver t pl s).host = s.host := rfl
@[simp] theorem crcOver_micro (t : Word) (pl : List Byte) : (crcOver t pl s).micro = s.micro := rfl
@[simp] theorem crcOver_value (t : Word) (pl : List Byte) : (crcOver t pl s).value = s.value := rfl
@[simp] theorem crcOver_epoch (t : Word) (pl : List Byte) : (crcOver t pl s).epoch = s.epoch := rfl
@[simp] theorem crcOver_fresh (t : Word) (pl : List Byte) : (crcOver t pl s).fresh = s.fresh := rfl
@[simp] theorem crcOver_build (t : Word) (pl : List Byte) : (crcOver t pl s).build = s.build := rfl

end Sys2Proof.Machine
end

