-- ==== Sys2Proof/Laws/Memory.lean ====
section
/-! SUPPORT. Byte memory: every operation keeps the canonical form; a read after a write gives the value written there and
what was there before elsewhere. Line buffers: the same two laws. -/

namespace Sys2Proof.Machine

/-- An address below every listed one is not listed. -/
theorem read_none_of_lt (m : Memory) (a : Nat) (h : ∀ c ∈ m, a < c.1) : Memory.read m a = none := by
  induction m with
  | nil => rfl
  | cons c m ih =>
    have hc : a < c.1 := h c (by simp)
    obtain ⟨k, v⟩ := c
    simp only at hc
    simp only [Memory.read]
    rw [if_neg (by omega)]
    exact ih fun d hd => h d (by simp [hd])

/-- The addresses a write lists are those that were listed and the one written. -/
theorem mem_write_addr (m : Memory) (a : Nat) (b : Byte) (c : Host.Cell) (h : c ∈ Memory.write m a b) :
    c.1 = a ∨ ∃ d ∈ m, d.1 = c.1 := by
  induction m with
  | nil => simp [Memory.write] at h; simp [h]
  | cons d m ih =>
    obtain ⟨k, v⟩ := d
    simp only [Memory.write] at h
    split at h
    · rcases List.mem_cons.1 h with rfl | h
      · simp
      · exact .inr ⟨c, h, rfl⟩
    · split at h
      · rcases List.mem_cons.1 h with rfl | h
        · simp
        · exact .inr ⟨c, by simp [h], rfl⟩
      · rcases List.mem_cons.1 h with rfl | h
        · exact .inr ⟨_, by simp, rfl⟩
        · rcases ih h with h | ⟨d, hd, e⟩
          · exact .inl h
          · exact .inr ⟨d, by simp [hd], e⟩

/-- A write keeps the canonical form. -/
theorem write_wf (m : Memory) (a : Nat) (b : Byte) (h : Memory.wf m) : Memory.wf (Memory.write m a b) := by
  induction m with
  | nil => simp [Memory.write, Memory.wf]
  | cons d m ih =>
    obtain ⟨k, v⟩ := d
    simp only [Memory.wf, List.pairwise_cons] at h
    simp only [Memory.write]
    split
    · rename_i hk
      simp only [Memory.wf, List.pairwise_cons]
      refine ⟨fun c hc => ?_, h⟩
      rcases List.mem_cons.1 hc with rfl | hc
      · exact hk
      · exact Nat.lt_trans hk (h.1 c hc)
    · split
      · rename_i hk
        subst hk
        simpa only [Memory.wf, List.pairwise_cons] using h
      · rename_i h1 h2
        simp only [Memory.wf, List.pairwise_cons]
        refine ⟨fun c hc => ?_, ih h.2⟩
        rcases mem_write_addr m a b c hc with e | ⟨d, hd, e⟩
        · simp only [e]; omega
        · simpa [e] using h.1 d hd

/-- A write of a sequence keeps the canonical form. -/
theorem writeBytes_wf (bs : List Byte) : ∀ (m : Memory) (a : Nat), Memory.wf m → Memory.wf (Memory.writeBytes m a bs) := by
  induction bs with
  | nil => intro m a h; exact h
  | cons b bs ih => intro m a h; exact ih _ _ (write_wf m a b h)

/-- Read after write. -/
theorem read_write (m : Memory) (a : Nat) (b : Byte) (k : Nat) :
    Memory.read (Memory.write m a b) k = if k = a then some b else Memory.read m k := by
  induction m with
  | nil => simp [Memory.write, Memory.read]
  | cons d m ih =>
    obtain ⟨j, v⟩ := d
    simp only [Memory.write]
    split
    · simp [Memory.read]
    · split
      · rename_i h; subst h
        simp only [Memory.read]
        split <;> simp_all
      · rename_i h1 h2
        simp only [Memory.read, ih]
        by_cases hk : k = j
        · subst hk; simp [show ¬ k = a by omega]
        · simp [hk]

/-- Read after the write of a sequence. -/
theorem read_writeBytes (bs : List Byte) : ∀ (m : Memory) (a k : Nat),
    Memory.read (Memory.writeBytes m a bs) k =
      if a ≤ k ∧ k < a + bs.length then bs[k - a]? else Memory.read m k := by
  induction bs with
  | nil => intro m a k; simp [Memory.writeBytes]
  | cons b bs ih =>
    intro m a k
    simp only [Memory.writeBytes, ih, read_write, List.length_cons]
    by_cases h : k = a
    · subst h; simp
    · by_cases h2 : a + 1 ≤ k ∧ k < a + 1 + bs.length
      · rw [if_pos h2, if_pos (by omega)]
        obtain ⟨j, rfl⟩ : ∃ j, k = a + 1 + j := ⟨k - (a + 1), by omega⟩
        simp [show a + 1 + j - a = j + 1 by omega]
      · rw [if_neg h2, if_neg h, if_neg (by omega)]

/-- An address is listed when a write lists it or it was listed. -/
theorem isSome_read_writeBytes (bs : List Byte) (m : Memory) (a k : Nat) :
    (Memory.read (Memory.writeBytes m a bs) k).isSome =
      (decide (a ≤ k ∧ k < a + bs.length) || (Memory.read m k).isSome) := by
  rw [read_writeBytes]
  split
  · rename_i h
    have : k - a < bs.length := by omega
    simp [h, this]
  · rename_i h; simp [h]

/-- A read finds what the list holds. -/
theorem read_of_mem (m : Memory) (h : Memory.wf m) (c : Host.Cell) (hc : c ∈ m) : Memory.read m c.1 = some c.2 := by
  induction m with
  | nil => simp at hc
  | cons d m ih =>
    obtain ⟨k, v⟩ := d
    simp only [Memory.wf, List.pairwise_cons] at h
    rcases List.mem_cons.1 hc with rfl | hm
    · simp [Memory.read]
    · have : k < c.1 := h.1 c hm
      simp only [Memory.read]
      rw [if_neg (by omega)]
      exact ih h.2 hm

/-- In canonical form two memories that read alike are the same list. -/
theorem wf_ext : ∀ (m n : Memory), Memory.wf m → Memory.wf n → (∀ a, Memory.read m a = Memory.read n a) → m = n := by
  intro m
  induction m with
  | nil =>
    intro n _ hn h
    cases n with
    | nil => rfl
    | cons d n => have := h d.1; rw [read_of_mem _ hn d (by simp)] at this; simp [Memory.read] at this
  | cons c m ih =>
    intro n hm hn h
    cases n with
    | nil => have := h c.1; rw [read_of_mem _ hm c (by simp)] at this; simp [Memory.read] at this
    | cons d n =>
      have hm' := List.pairwise_cons.1 hm
      have hn' := List.pairwise_cons.1 hn
      have hcd : c.1 = d.1 := by
        rcases Nat.lt_trichotomy c.1 d.1 with hl | he | hl
        · have := h c.1
          rw [read_of_mem _ hm c (by simp), read_none_of_lt (d :: n) c.1 (by
            intro e he; rcases List.mem_cons.1 he with rfl | he
            · exact hl
            · exact Nat.lt_trans hl (hn'.1 e he))] at this
          simp at this
        · exact he
        · have := h d.1
          rw [read_of_mem _ hn d (by simp), read_none_of_lt (c :: m) d.1 (by
            intro e he; rcases List.mem_cons.1 he with rfl | he
            · exact hl
            · exact Nat.lt_trans hl (hm'.1 e he))] at this
          simp at this
      have hv : c = d := by
        have := h c.1
        rw [read_of_mem _ hm c (by simp), hcd, read_of_mem _ hn d (by simp)] at this
        exact Prod.ext hcd (by simpa using this)
      subst hv
      congr 1
      refine ih n hm'.2 hn'.2 fun a => ?_
      by_cases ha : a = c.1
      · subst ha
        rw [read_none_of_lt m c.1 hm'.1, read_none_of_lt n c.1 hn'.1]
      · have := h a
        obtain ⟨k, v⟩ := c
        simpa [Memory.read, ha] using this

/-- A complete image lists every byte of its size: as many distinct addresses below `n` as there are. -/
theorem isSome_of_full (m : Memory) (n : Nat) (h : Memory.wf m)
    (hn : (m.filter fun c => decide (c.1 < n)).length = n) : ∀ a, a < n → (Memory.read m a).isSome := by
  intro a ha
  have hsub : (m.filter fun c => decide (c.1 < n)).map (·.1) ⊆ List.range n := by
    intro k hk
    simp only [List.mem_map, List.mem_filter, decide_eq_true_eq] at hk
    obtain ⟨c, ⟨_, hc⟩, rfl⟩ := hk
    simpa using hc
  have hnd : ((m.filter fun c => decide (c.1 < n)).map (·.1)).Nodup := by
    rw [List.nodup_iff_pairwise_ne, List.pairwise_map]
    exact ((h.filter _).imp fun hab => Nat.ne_of_lt hab)
  have hperm : ((m.filter fun c => decide (c.1 < n)).map (·.1)).Perm (List.range n) :=
    (List.subperm_of_subset hnd hsub).perm_of_length_le (by simp [hn])
  have hmem : a ∈ (m.filter fun c => decide (c.1 < n)).map (·.1) := hperm.mem_iff.2 (by simpa using ha)
  simp only [List.mem_map, List.mem_filter] at hmem
  obtain ⟨c, ⟨hc, _⟩, rfl⟩ := hmem
  simp [read_of_mem m h c hc]

/-! ### Line buffers -/

/-- A cell of a line buffer after a write at its end or inside it. -/
theorem lineWrite_getElem? (free : Nat → Byte) (l : List Byte) (k : Nat) (v : Byte) (j : Nat) (hk : k ≤ l.length) :
    (lineWrite free l k v)[j]? = if j = k then some v else l[j]? := by
  unfold lineWrite
  split
  · rename_i h
    rw [List.getElem?_set]
    by_cases hj : j = k
    · subst hj; simp [h]
    · simp [hj, Ne.symm hj]
  · rename_i h
    have : k = l.length := by omega
    subst this
    simp only [Nat.sub_self, List.range_zero, List.map_nil, List.append_nil]
    by_cases hj : j = l.length
    · subst hj; simp
    · simp only [hj, if_false]
      by_cases hlt : j < l.length
      · rw [List.getElem?_append_left hlt]
      · rw [List.getElem?_eq_none (by simp; omega), List.getElem?_eq_none (by omega)]

/-- The length of a line buffer after a write at its end or inside it. -/
theorem lineWrite_length (free : Nat → Byte) (l : List Byte) (k : Nat) (v : Byte) (hk : k ≤ l.length) :
    (lineWrite free l k v).length = max l.length (k + 1) := by
  unfold lineWrite
  split
  · simp; omega
  · have : k = l.length := by omega
    subst this
    simp

/-- The cells of a line buffer that holds at least as many are its front. -/
theorem lineCells_eq_take (free : Nat → Byte) (l : List Byte) (n : Nat) (h : n ≤ l.length) :
    lineCells free l n = l.take n := by
  apply List.ext_getElem?
  intro j
  unfold lineCells lineRead
  by_cases hj : j < n
  · simp [hj, List.getElem?_eq_getElem (Nat.lt_of_lt_of_le hj h)]
  · rw [List.getElem?_eq_none (by simp; omega), List.getElem?_eq_none (by simp; omega)]

/-- There are as many cells as asked for. -/
@[simp] theorem lineCells_length (free : Nat → Byte) (l : List Byte) (n : Nat) : (lineCells free l n).length = n := by
  simp [lineCells]

end Sys2Proof.Machine
end

