-- ==== Sys2Proof/Laws/Ops.lean ====
section
/-! SUPPORT. What each shared operation can do, said once: emitting, framing a chunk, one filtered byte, taking an exception,
reading a register. -/

namespace Sys2Proof.Machine

/-- Every cause has a kind that is not 0. -/
@[simp] theorem kind_code_ne_zero (k : ErrKind) : k.code ≠ 0#8 := by cases k <;> decide

/-- `raise` is R240 with the report of the cause. -/
theorem raise_eq_failState (c : Cause) (s : State) :
    raise c s = failState c.kind.code c.code (c.errType s) (c.errOffset s)
      (if c.kind = .checksum then s.rd.crcrx else 0)
      (if c.kind = .checksum then crcComplement s.crcacc else 0) s := rfl

/-- The report the machine makes of a cause is the one the functions answer, but for a checksum error's two checksums (R232). -/
theorem report_eq_failure (c : Cause) (s : State) (h : c.kind ≠ .checksum) :
    c.report s = failure c (c.errType s) (c.errOffset s) := by
  simp [Cause.report, failure, noReport, h]

/-- A read of any register changes nothing but the value delivered. -/
theorem hostRead_eq (r : Reg) (s : State) : hostRead r s = .next { s with value := seenReg r s } := by
  cases r <;> simp [hostRead, exec, execPixWidth, execPixHeight, seenReg, readReg, Reg.readableBusy]

/-- With no command running the host sees every register. -/
@[simp] theorem seenReg_idle (r : Reg) (s : State) (h : s.status.busy = false) : seenReg r s = readReg r s := by
  simp [seenReg, h]

/-- `Emit(OUT, v)` with a port that works. -/
theorem emitOut_ok (v : List Byte) (s : State) (h : portFails s.ports.outFail s.wr.opos v.length = false) :
    emitOut v s = .ok { s with
      ports := { s.ports with out := s.ports.out ++ v }
      wr := { s.wr with opos := s.wr.opos + v.length } } := by
  simp [emitOut, h]

/-- `Emit(OUT, v)` with a port that fails: some front part of `v` has arrived. -/
theorem emitOut_raised (v : List Byte) (s : State) (h : portFails s.ports.outFail s.wr.opos v.length = true) :
    emitOut v s = .raised (raise .writeFailed { s with
      ports := { s.ports with out := s.ports.out ++ v.take (Config.freeWritten s.fresh) }
      fresh := s.fresh + 1 }) := by
  simp [emitOut, h]

/-- A port with no failure never fails. -/
@[simp] theorem portFails_none (p n : Nat) : portFails none p n = false := rfl

/-- Two states that differ at most in the reader's registers and `CRCACC`, the flags `SEEN_*` apart. -/
structure ReaderOnly (s t : State) : Prop where
  eq : t = { s with crcacc := t.crcacc, rd := t.rd }
  seenIhdr : t.rd.seenIhdr = s.rd.seenIhdr
  seenIend : t.rd.seenIend = s.rd.seenIend

/-- What framing can do: raise an error on a state that differs from `s` in the reader only, or deliver the `LEN` payload
bytes with `POS` past the chunk. -/
theorem frameChunk_cases (s : State) :
    (∃ c u, frameChunk s = .raised (raise c u) ∧ ReaderOnly s u) ∨
    (∃ t payload, frameChunk s = .ok t payload ∧ ReaderOnly s t ∧ payload.length = t.rd.len.toNat ∧
      t.rd.pos = s.rd.pos + 12 + t.rd.len.toNat ∧ t.rd.chunkoff = s.rd.pos ∧ t.rd.pos ≤ s.ports.inp.length) := by
  unfold frameChunk
  dsimp only
  split
  · exact .inl ⟨_, _, rfl, rfl, rfl, rfl⟩
  split
  · exact .inl ⟨_, _, rfl, rfl, rfl, rfl⟩
  split
  · exact .inl ⟨_, _, rfl, rfl, rfl, rfl⟩
  unfold frameType
  split
  · exact .inl ⟨_, _, rfl, rfl, rfl, rfl⟩
  split
  · exact .inl ⟨_, _, rfl, rfl, rfl, rfl⟩
  unfold framePayload
  dsimp only
  split
  · exact .inl ⟨_, _, rfl, rfl, rfl, rfl⟩
  split
  · exact .inl ⟨_, _, rfl, rfl, rfl, rfl⟩
  unfold frameCrc
  dsimp only
  split
  · exact .inl ⟨_, _, rfl, rfl, rfl, rfl⟩
  split
  · exact .inl ⟨_, _, rfl, rfl, rfl, rfl⟩
  split
  · exact .inl ⟨_, _, rfl, rfl, rfl, rfl⟩
  rename_i havail _ payload hread havail2 _ _ _ _
  refine .inr ⟨_, _, rfl, ⟨rfl, rfl, rfl⟩, ?_, rfl, rfl, ?_⟩
  · simp only [State.inRead, State.inAvail] at hread havail
    split at hread
    · simp at hread
    · simp only [Option.some.injEq] at hread
      subst hread
      simp only [crcOver, List.length_take, List.length_drop]
      omega
  · simp only [State.inAvail] at havail2
    dsimp only
    omega

/-- One reconstructed byte: where it completes, and what it leaves. -/
theorem reconByte_next (t : FilterType) (s : State) (filt : Byte) (hi : s.fl.i < s.rowBytes)
    (hf : s.fbuf[s.fl.fpos + 1 + s.fl.i]? = some filt) :
    reconByte t s = .next { s.setCur s.fl.i
        (filt + predictor t (s.left s.fl.i) (s.up s.fl.i) (s.upLeft s.fl.i)) with
      fl := { s.fl with i := s.fl.i + 1 } } := by
  simp [reconByte, hi, hf]

/-- What one reconstructed byte can do. -/
theorem reconByte_cases (t : FilterType) (s u : State) (h : reconByte t s = .next u) :
    s.fl.i < s.rowBytes ∧ ∃ v, u = { s.setCur s.fl.i v with fl := { s.fl with i := s.fl.i + 1 } } := by
  unfold reconByte at h
  split at h
  · rename_i hi
    split at h
    · cases h
    · simp only [Host.Outcome.next.injEq] at h
      exact ⟨hi, _, h.symm⟩
  · cases h

/-- One filtered byte. -/
theorem filtByte_next (t : FilterType) (s : State) (hi : s.fl.i < s.rowBytes) :
    filtByte t s = .next { s with
      fbuf := s.fbuf ++ [filteredByte t s.curAt s.prevAt s.fl.i]
      fl := { s.fl with i := s.fl.i + 1 } } := by
  simp [filtByte, hi]

/-- What one filtered byte can do. -/
theorem filtByte_cases (t : FilterType) (s u : State) (h : filtByte t s = .next u) :
    s.fl.i < s.rowBytes ∧ ∃ v, u = { s with fbuf := s.fbuf ++ [v], fl := { s.fl with i := s.fl.i + 1 } } := by
  unfold filtByte at h
  split at h
  · rename_i hi
    simp only [Host.Outcome.next.injEq] at h
    exact ⟨hi, _, h.symm⟩
  · cases h

/-- The meaning of a reconstruct operation is one reconstructed byte. -/
theorem exec_reconOf (t : FilterType) (s : State) : exec (reconOf t) s = reconByte t s := by cases t <;> rfl

/-- The meaning of an apply operation is one filtered byte. -/
theorem exec_filtOf (t : FilterType) (s : State) : exec (filtOf t) s = filtByte t s := by cases t <;> rfl

/-- The code of a filter type decodes to it. -/
@[simp] theorem ofCode_code (t : FilterType) : FilterType.ofCode t.code = some t := by cases t <;> decide

/-- Writing one chunk: with a port that works the chunk of R92 is appended; else an error is raised. -/
theorem writeChunk_cases (type : Word) (payload : List Byte) (s : State) :
    (∃ t, writeChunk type payload s = .ok t ∧
      t = { s with
        crcacc := crcBytes crcInitial (enc32 type ++ payload)
        rd := { s.rd with len := BitVec.ofNat 32 payload.length, type := type }
        ports := { s.ports with out := s.ports.out ++ chunkBytes type payload }
        wr := { s.wr with opos := s.wr.opos + (chunkBytes type payload).length } }) ∨
    (∃ u, writeChunk type payload s = .raised (raise .writeFailed u) ∧
      u = { s with crcacc := u.crcacc, rd := u.rd, ports := u.ports, fresh := u.fresh }) := by
  unfold writeChunk emitOut
  dsimp only
  split
  · exact .inr ⟨_, rfl, rfl⟩
  · exact .inl ⟨_, rfl, rfl⟩

end Sys2Proof.Machine
end

