-- ==== Sys2Proof/Laws/PerInstr.lean ====
section
/-! SUPPORT. The family EncodedLength: how many bytes each operation's encoding has (R91 to R93, R103, R104, R109, R204), and
which operations have none (R111). -/

namespace Sys2Proof.Laws.EncodedLength

open Sys2Proof

/-- The length of an encoding in a format with `n` payload bytes (R104); `none` for no encoding (R111). -/
def formatBytes (n : Nat) : Format → Option Nat
  | .cmd => some 1
  | .sigIn => some 8
  | .sigOut => some 8
  | .chunkIn => some (12 + n)
  | .chunkOut => some (12 + n)
  | .typeOut => some 4
  | .rowIn => some 1
  | .rowOut => some 1
  | .reg => some 1
  | .internal => none

/-- The payload of a chunk operation. -/
def payloadBytes : Instr → Nat
  | .chunkIhdr payload => payload.length
  | .chunkIdat payload => payload.length
  | .chunkIend payload => payload.length
  | .chunkOther _ payload => payload.length
  | .wrChunk _ payload => payload.length
  | _ => 0

/-- The encoding of `i` is as long as its format says, and is missing exactly if the format is INTERNAL. -/
def Statement (i : Instr) : Prop := (encode i).map List.length = formatBytes (payloadBytes i) i.format

/-- The length of a chunk (R92). -/
theorem chunkBytes_length (type : Word) (payload : List Byte) :
    (chunkBytes type payload).length = 12 + payload.length := by
  simp [chunkBytes, enc32]
  omega

theorem decode : Statement .decode := rfl
theorem encode : Statement .encode := rfl
theorem pixGet : Statement .pixGet := rfl
theorem pixSet : Statement .pixSet := rfl
theorem cmdReserved (code : Byte) : Statement (.cmdReserved code) := rfl
theorem rdSig : Statement .rdSig := rfl
theorem wrSig : Statement .wrSig := rfl
theorem rdChunk : Statement .rdChunk := rfl
theorem chunkIhdr (payload : List Byte) : Statement (.chunkIhdr payload) := by
  simp [Statement, Sys2Proof.encode, Instr.format, formatBytes, payloadBytes, chunkBytes_length]
theorem chunkIdat (payload : List Byte) : Statement (.chunkIdat payload) := by
  simp [Statement, Sys2Proof.encode, Instr.format, formatBytes, payloadBytes, chunkBytes_length]
theorem chunkIend (payload : List Byte) : Statement (.chunkIend payload) := by
  simp [Statement, Sys2Proof.encode, Instr.format, formatBytes, payloadBytes, chunkBytes_length]
theorem chunkOther (type : Word) (payload : List Byte) : Statement (.chunkOther type payload) := by
  simp [Statement, Sys2Proof.encode, Instr.format, formatBytes, payloadBytes, chunkBytes_length]
theorem emitIhdr : Statement .emitIhdr := rfl
theorem emitIdat : Statement .emitIdat := rfl
theorem emitIend : Statement .emitIend := rfl
theorem wrChunk (type : Word) (payload : List Byte) : Statement (.wrChunk type payload) := by
  simp [Statement, Sys2Proof.encode, Instr.format, formatBytes, payloadBytes, chunkBytes_length]
theorem reconNone : Statement .reconNone := rfl
theorem reconSub : Statement .reconSub := rfl
theorem reconUp : Statement .reconUp := rfl
theorem reconAvg : Statement .reconAvg := rfl
theorem reconPaeth : Statement .reconPaeth := rfl
theorem filtNone : Statement .filtNone := rfl
theorem filtSub : Statement .filtSub := rfl
theorem filtUp : Statement .filtUp := rfl
theorem filtAvg : Statement .filtAvg := rfl
theorem filtPaeth : Statement .filtPaeth := rfl
theorem rowIllegal (ft : Byte) : Statement (.rowIllegal ft) := rfl
theorem crcInit : Statement .crcInit := rfl
theorem crcUpdate (b : Byte) : Statement (.crcUpdate b) := rfl
theorem crcFinal : Statement .crcFinal := rfl
theorem crcChunk (type : Word) (payload : List Byte) : Statement (.crcChunk type payload) := rfl
theorem zportInflate : Statement .zportInflate := rfl
theorem zportDeflate : Statement .zportDeflate := rfl
theorem paeth (a b c : Byte) : Statement (.paeth a b c) := rfl
theorem be32 (b0 b1 b2 b3 : Byte) : Statement (.be32 b0 b1 b2 b3) := rfl
theorem enc32 (v : Word) : Statement (.enc32 v) := rfl
theorem pixWidth : Statement .pixWidth := rfl
theorem pixHeight : Statement .pixHeight := rfl

end Sys2Proof.Laws.EncodedLength
end

