-- ==== Sys2Proof/Laws/Bytes.lean ====
section
/-! SUPPORT. The byte-level functions: `be32` and `enc32` as numbers and as inverses, a chunk framed and read back, and the
linearity of the CRC engine. -/

namespace Sys2Proof.Machine

/-- `be32` as a number (R100). -/
theorem be32_toNat (b0 b1 b2 b3 : Byte) : be32 b0 b1 b2 b3 = BitVec.ofNat 32 (b0.toNat * 2 ^ 24 + b1.toNat * 2 ^ 16 + b2.toNat * 2 ^ 8 + b3.toNat) := by
  have h0 := b0.isLt; have h1 := b1.isLt; have h2 := b2.isLt; have h3 := b3.isLt
  apply BitVec.eq_of_toNat_eq
  simp only [be32, BitVec.toNat_or, BitVec.toNat_shiftLeft, BitVec.toNat_setWidth, BitVec.toNat_ofNat]
  generalize b0.toNat = x0 at *
  generalize b1.toNat = x1 at *
  generalize b2.toNat = x2 at *
  generalize b3.toNat = x3 at *
  rw [Nat.mod_eq_of_lt (show x0 < 2 ^ 32 by omega), Nat.mod_eq_of_lt (show x1 < 2 ^ 32 by omega),
    Nat.mod_eq_of_lt (show x2 < 2 ^ 32 by omega), Nat.mod_eq_of_lt (show x3 < 2 ^ 32 by omega),
    Nat.mod_eq_of_lt (show x0 <<< 24 < 2 ^ 32 by rw [Nat.shiftLeft_eq]; omega),
    Nat.mod_eq_of_lt (show x1 <<< 16 < 2 ^ 32 by rw [Nat.shiftLeft_eq]; omega),
    Nat.mod_eq_of_lt (show x2 <<< 8 < 2 ^ 32 by rw [Nat.shiftLeft_eq]; omega),
    ← Nat.shiftLeft_add_eq_or_of_lt (show x1 <<< 16 < 2 ^ 24 by rw [Nat.shiftLeft_eq]; omega)]
  have e1 : x0 <<< 24 + x1 <<< 16 = (x0 <<< 8 + x1) <<< 16 := by simp only [Nat.shiftLeft_eq]; omega
  rw [e1, ← Nat.shiftLeft_add_eq_or_of_lt (show x2 <<< 8 < 2 ^ 16 by rw [Nat.shiftLeft_eq]; omega)]
  have e2 : (x0 <<< 8 + x1) <<< 16 + x2 <<< 8 = ((x0 <<< 8 + x1) <<< 8 + x2) <<< 8 := by simp only [Nat.shiftLeft_eq]; omega
  rw [e2, ← Nat.shiftLeft_add_eq_or_of_lt h3]
  simp only [Nat.shiftLeft_eq]
  omega

/-- `enc32` undoes `be32` (R101). -/
theorem enc32_be32 (b0 b1 b2 b3 : Byte) : enc32 (be32 b0 b1 b2 b3) = [b0, b1, b2, b3] := by
  have h0 := b0.isLt; have h1 := b1.isLt; have h2 := b2.isLt; have h3 := b3.isLt
  have e : (be32 b0 b1 b2 b3).toNat = b0.toNat * 2 ^ 24 + b1.toNat * 2 ^ 16 + b2.toNat * 2 ^ 8 + b3.toNat := by
    rw [be32_toNat, BitVec.toNat_ofNat]
    omega
  generalize be32 b0 b1 b2 b3 = v at e
  simp only [enc32, List.cons.injEq, and_true]
  refine ⟨?_, ?_, ?_, ?_⟩ <;>
  · apply BitVec.eq_of_toNat_eq
    simp only [BitVec.extractLsb'_toNat, Nat.shiftRight_eq_div_pow, e]
    omega

/-- `enc32` byte by byte (R101). -/
theorem enc32_toNat (v : Word) : enc32 v = [BitVec.ofNat 8 (v.toNat / 2 ^ 24), BitVec.ofNat 8 (v.toNat / 2 ^ 16),
      BitVec.ofNat 8 (v.toNat / 2 ^ 8), BitVec.ofNat 8 v.toNat] := by
  simp only [enc32, List.cons.injEq, and_true]
  refine ⟨?_, ?_, ?_, ?_⟩ <;>
  · apply BitVec.eq_of_toNat_eq
    simp only [BitVec.extractLsb'_toNat, BitVec.toNat_ofNat, Nat.shiftRight_eq_div_pow]
    try omega

/-- `be32` undoes `enc32` (R101). -/
theorem be32Of_enc32 (v : Word) : be32Of (enc32 v) = v := by
  rw [enc32_toNat]
  simp only [be32Of, List.getD_cons_zero, List.getD_cons_succ, be32_toNat]
  apply BitVec.eq_of_toNat_eq
  have := v.isLt
  simp only [BitVec.toNat_ofNat]
  omega

/-- Four bytes. -/
@[simp] theorem enc32_length (v : Word) : (enc32 v).length = 4 := rfl

/-- The length of a chunk (R92). -/
theorem chunkBytes_length (type : Word) (payload : List Byte) :
    (chunkBytes type payload).length = 12 + payload.length :=
  Sys2Proof.Laws.EncodedLength.chunkBytes_length type payload

/-- The length field of a chunk reads back. -/
theorem be32Of_chunk_length (type : Word) (payload rest : List Byte) :
    be32Of ((chunkBytes type payload ++ rest).take 4) = BitVec.ofNat 32 payload.length := by
  rw [← be32Of_enc32 (BitVec.ofNat 32 payload.length)]
  rfl

/-- The front of a chunk: its four fields. -/
theorem splitChunk_fields (n type crc : Word) (payload rest : List Byte) (hn : n.toNat = payload.length) :
    splitChunk (enc32 n ++ enc32 type ++ payload ++ enc32 crc ++ rest) =
      if crc32 (enc32 type ++ payload) = crc then .ok (type, payload, rest) else .error .crcMismatch := by
  have hl : be32 (n.extractLsb' 24 8) (n.extractLsb' 16 8) (n.extractLsb' 8 8) (n.extractLsb' 0 8) = n := be32Of_enc32 n
  have ht : be32 (type.extractLsb' 24 8) (type.extractLsb' 16 8) (type.extractLsb' 8 8) (type.extractLsb' 0 8) = type :=
    be32Of_enc32 type
  have hc : be32 (crc.extractLsb' 24 8) (crc.extractLsb' 16 8) (crc.extractLsb' 8 8) (crc.extractLsb' 0 8) = crc :=
    be32Of_enc32 crc
  simp only [enc32, List.append_assoc, List.cons_append, List.nil_append, splitChunk, hl, ht, hn]
  rw [if_neg (by simp), List.take_left, List.drop_left]
  simp only [hc]
  rfl

/-- A chunk reads back as its type and payload (R92). -/
theorem splitChunk_chunkBytes (type : Word) (payload rest : List Byte) (h : payload.length < 2 ^ 32) :
    splitChunk (chunkBytes type payload ++ rest) = .ok (type, payload, rest) := by
  have hn : (BitVec.ofNat 32 payload.length).toNat = payload.length := by
    rw [BitVec.toNat_ofNat, Nat.mod_eq_of_lt h]
  have := splitChunk_fields (BitVec.ofNat 32 payload.length) type (crc32 (enc32 type ++ payload)) payload rest hn
  rw [if_pos rfl] at this
  exact this

/-- What `splitChunk` accepts is a chunk. -/
theorem splitChunk_ok (bs : List Byte) (type : Word) (payload rest : List Byte)
    (h : splitChunk bs = .ok (type, payload, rest)) :
    bs = chunkBytes type payload ++ rest ∧ payload.length < 2 ^ 32 := by
  unfold splitChunk at h
  split at h
  · rename_i l0 l1 l2 l3 afterLength
    split at h
    · rename_i t0 t1 t2 t3 afterType
      dsimp only at h
      split at h
      · cases h
      · rename_i hlen
        split at h
        · rename_i c0 c1 c2 c3 r hdrop
          split at h
          · rename_i hcrc
            simp only [Except.ok.injEq, Prod.mk.injEq] at h
            obtain ⟨rfl, rfl, rfl⟩ := h
            have hl : (afterType.take (be32 l0 l1 l2 l3).toNat).length = (be32 l0 l1 l2 l3).toNat := by
              rw [List.length_take]; omega
            refine ⟨?_, by rw [hl]; exact (be32 l0 l1 l2 l3).isLt⟩
            unfold chunkBytes
            rw [hl, BitVec.ofNat_toNat, BitVec.setWidth_eq, enc32_be32, enc32_be32]
            simp only [List.cons_append, List.nil_append] at hcrc ⊢
            rw [hcrc, enc32_be32]
            simp only [List.append_assoc, List.cons_append, List.nil_append, List.cons.injEq, true_and]
            rw [← hdrop, List.take_append_drop]
          · cases h
        · cases h
    · cases h
  · cases h

/-! ### The CRC engine is linear -/

/-- One shift step of a sum. -/
theorem crcShift_xor (x y : Word) : crcShift (x ^^^ y) = crcShift x ^^^ crcShift y := by
  unfold crcShift
  rw [BitVec.getLsbD_xor, BitVec.ushiftRight_xor_distrib]
  cases x.getLsbD 0 <;> cases y.getLsbD 0 <;> simp only [Bool.xor_self, Bool.xor_true, Bool.xor_false,
    Bool.not_false, if_true, if_false, Bool.false_eq_true]
  · ac_rfl
  · ac_rfl
  · have e : x >>> 1 ^^^ crcPoly ^^^ (y >>> 1 ^^^ crcPoly) = (crcPoly ^^^ crcPoly) ^^^ (x >>> 1 ^^^ y >>> 1) := by ac_rfl
    rw [e, BitVec.xor_self, BitVec.zero_xor]

/-- Shift steps of a sum. -/
theorem crcShifts_xor (n : Nat) : ∀ x y : Word, crcShifts n (x ^^^ y) = crcShifts n x ^^^ crcShifts n y := by
  induction n with
  | zero => intro x y; rfl
  | succ n ih => intro x y; simp only [crcShifts, crcShift_xor, ih]

/-- A shift step loses nothing: bit 31 of the result is the bit shifted out. -/
theorem crcShift_inj {x y : Word} (h : crcShift x = crcShift y) : x = y := by
  have hb : ∀ c : Word, (crcShift c).getLsbD 31 = c.getLsbD 0 := by
    intro c
    unfold crcShift
    cases hc : c.getLsbD 0 <;> simp [crcPoly]
  have h0 : x.getLsbD 0 = y.getLsbD 0 := by rw [← hb x, ← hb y, h]
  have hs : x >>> 1 = y >>> 1 := by
    unfold crcShift at h
    rw [h0] at h
    cases hy : y.getLsbD 0 <;> simp only [hy, if_true, if_false, Bool.false_eq_true] at h
    · exact h
    · exact (BitVec.xor_left_inj _).1 h
  apply BitVec.eq_of_getLsbD_eq
  intro i hi
  cases i with
  | zero => exact h0
  | succ i =>
    have := congrArg (fun v => BitVec.getLsbD v i) hs
    simpa [BitVec.getLsbD_ushiftRight, Nat.add_comm] using this

/-- Shift steps lose nothing. -/
theorem crcShifts_inj (n : Nat) : ∀ {x y : Word}, crcShifts n x = crcShifts n y → x = y := by
  induction n with
  | zero => intro x y h; exact h
  | succ n ih => intro x y h; exact crcShift_inj (ih h)

/-- A checksum step is injective in the remainder. -/
theorem crcByte_inj {c d : Word} {b : Byte} (h : crcByte c b = crcByte d b) : c = d :=
  (BitVec.xor_left_inj _).1 (crcShifts_inj 8 h)

/-- A shift step on an even remainder. -/
theorem crcShift_even (c : Word) (h : c.getLsbD 0 = false) : crcShift c = c >>> 1 := by unfold crcShift; rw [h]; rfl

/-- Shift steps on a remainder whose low bits are 0. -/
theorem crcShifts_low (k : Nat) : ∀ c : Word, (∀ i, i < k → c.getLsbD i = false) → crcShifts k c = c >>> k := by
  induction k with
  | zero => intro c _; simp [crcShifts]
  | succ k ih =>
    intro c h
    simp only [crcShifts]
    rw [crcShift_even c (h 0 (by omega)), ih _ (by intro i hi; simpa [Nat.add_comm] using h (i+1) (by omega)), ← BitVec.shiftRight_add, Nat.add_comm]

/-- A checksum run is injective in the remainder. -/
theorem crcBytes_inj (q : List Byte) : ∀ c d : Word, crcBytes c q = crcBytes d q → c = d := by
  induction q with
  | nil => intro c d h; exact h
  | cons b q ih => intro c d h; exact crcByte_inj (ih _ _ h)

/-! ### Filter types -/

/-- A byte that decodes to a filter type is its code (R103). -/
theorem ofCode_some {ft : Byte} {t : FilterType} (h : FilterType.ofCode ft = some t) : ft = t.code := by
  unfold FilterType.ofCode at h
  split at h; · cases h; assumption
  split at h; · cases h; assumption
  split at h; · cases h; assumption
  split at h; · cases h; assumption
  split at h; · cases h; assumption
  cases h

/-- The bytes that are no filter type (R103, R105). -/
theorem ofCode_none {ft : Byte} : FilterType.ofCode ft = none ↔ 4 < ft.toNat := by
  unfold FilterType.ofCode
  constructor
  · intro h
    split at h; · cases h
    split at h; · cases h
    split at h; · cases h
    split at h; · cases h
    split at h; · cases h
    rename_i h0 h1 h2 h3 h4
    have := ft.isLt
    by_contra hc
    have : ft.toNat = 0 ∨ ft.toNat = 1 ∨ ft.toNat = 2 ∨ ft.toNat = 3 ∨ ft.toNat = 4 := by omega
    rcases this with e | e | e | e | e
    · exact h0 (BitVec.eq_of_toNat_eq e)
    · exact h1 (BitVec.eq_of_toNat_eq e)
    · exact h2 (BitVec.eq_of_toNat_eq e)
    · exact h3 (BitVec.eq_of_toNat_eq e)
    · exact h4 (BitVec.eq_of_toNat_eq e)
  · intro h
    rw [if_neg, if_neg, if_neg, if_neg, if_neg] <;> · rintro rfl; revert h; decide

end Sys2Proof.Machine
end

