-- ==== Sys2Proof/Laws/Chunk.lean ====
section
/-! SUPPORT. Chunks: the framing for a port that works, stage by stage; the fields of a chunk; writing one and reading it
back. -/

namespace Sys2Proof.Machine

/-- A read from a port that works. -/
theorem inRead_ok (s : State) (h : s.ports.inFail = none) (p n : Nat) : s.inRead p n = some ((s.ports.inp.drop p).take n) := by
  simp [State.inRead, h, portFails_none]

/-- `enc32` undoes `be32` on four bytes. -/
theorem be32Of_four (l : List Byte) (h : l.length = 4) : enc32 (be32Of l) = l := by
  match l, h with
  | [a,b,c,d], _ => exact enc32_be32 a b c d

/-- The end of the framing, for a port that works. -/
theorem frameCrc_eq (p : Nat) (payload : List Byte) (s : State) (hp : s.ports.inFail = none) :
    frameCrc p payload s =
      if s.ports.inp.length - (p + 8 + s.rd.len.toNat) < 4 then .raised (raise .truncCrc s)
      else
        let c := be32Of ((s.ports.inp.drop (p + 8 + s.rd.len.toNat)).take 4)
        let s1 := crcOver s.rd.type payload { s with rd := { s.rd with crcrx := c } }
        if crcComplement s1.crcacc ≠ c then .raised (raise .crcMismatch s1)
        else .ok { s1 with rd := { s1.rd with pos := p + 12 + s.rd.len.toNat } } payload := by
  unfold frameCrc
  dsimp only
  rw [inRead_ok _ hp]
  rfl

/-- The payload part of the framing, for a port that works. -/
theorem framePayload_eq (p : Nat) (s : State) (hp : s.ports.inFail = none) :
    framePayload p s =
      if s.ports.inp.length - (p + 8) < s.rd.len.toNat then .raised (raise .truncPayload s)
      else frameCrc p ((s.ports.inp.drop (p + 8)).take s.rd.len.toNat) s := by
  unfold framePayload
  dsimp only
  rw [inRead_ok _ hp]
  rfl

/-- The type part of the framing, for a port that works. -/
theorem frameType_eq (p : Nat) (s : State) (hp : s.ports.inFail = none) :
    frameType p s =
      if s.ports.inp.length - (p + 4) < 4 then .raised (raise .truncType s)
      else framePayload p { s with rd := { s.rd with type := be32Of ((s.ports.inp.drop (p + 4)).take 4) } } := by
  unfold frameType
  dsimp only
  rw [inRead_ok _ hp]
  rfl

/-- The framing from its start, for a port that works. -/
theorem frameChunk_eq (s : State) (hp : s.ports.inFail = none) :
    frameChunk s =
      if s.ports.inp.length - s.rd.pos < 4 then .raised (raise .truncLength (framing 0 0 s))
      else
        let n := be32Of ((s.ports.inp.drop s.rd.pos).take 4)
        if n.toNat > s.build.maxLen.toNat then .raised (raise .lengthOverMax (framing n 0 s))
        else frameType s.rd.pos (framing n 0 s) := by
  unfold frameChunk
  dsimp only
  rw [inRead_ok _ (by exact hp)]
  rfl

/-- The end of the framing, in the terms of Safety.lean. -/
theorem frameCrc_framing (s : State) (hp : s.ports.inFail = none) (L T : Word) (P : List Byte) (hP : P.length = L.toNat) :
    frameCrc s.rd.pos P (framing L T s) =
      if s.ports.inp.length - (s.rd.pos + 8 + L.toNat) < 4 then .raised (raise .truncCrc (framing L T s))
      else if crc32 (enc32 T ++ P) ≠ be32Of ((s.ports.inp.drop (s.rd.pos + 8 + L.toNat)).take 4) then
        .raised (raise .crcMismatch (framed T P (be32Of ((s.ports.inp.drop (s.rd.pos + 8 + L.toNat)).take 4)) s))
      else .ok (delivered T P s) P := by
  rw [frameCrc_eq _ _ _ (by exact hp)]
  change (if s.ports.inp.length - (s.rd.pos + 8 + L.toNat) < 4 then _ else _) = _
  by_cases h5 : s.ports.inp.length - (s.rd.pos + 8 + L.toNat) < 4
  · rw [if_pos h5, if_pos h5]
  rw [if_neg h5, if_neg h5]
  have e : BitVec.ofNat 32 P.length = L := by rw [hP]; simp
  change (if crc32 (enc32 T ++ P) ≠ be32Of ((s.ports.inp.drop (s.rd.pos + 8 + L.toNat)).take 4) then _ else _) = _
  generalize hC : be32Of ((s.ports.inp.drop (s.rd.pos + 8 + L.toNat)).take 4) = C
  by_cases h6 : crc32 (enc32 T ++ P) ≠ C
  · rw [if_pos h6, if_pos h6]
    unfold framed
    rw [e]
    show Framed.raised (raise .crcMismatch (crcOver T P { framing L T s with rd := { (framing L T s).rd with crcrx := be32Of ((s.ports.inp.drop (s.rd.pos + 8 + L.toNat)).take 4) } })) = _
    rw [hC]
    rfl
  · rw [if_neg h6, if_neg h6]
    have h6 : crc32 (enc32 T ++ P) = C := by simpa using h6
    unfold delivered
    rw [e, h6, hP]
    show Framed.ok { crcOver T P { framing L T s with rd := { (framing L T s).rd with crcrx := be32Of ((s.ports.inp.drop (s.rd.pos + 8 + L.toNat)).take 4) } } with rd := { (framing L T s).rd with pos := s.rd.pos + 12 + L.toNat, crcrx := be32Of ((s.ports.inp.drop (s.rd.pos + 8 + L.toNat)).take 4) } } P = _
    rw [hC]
    rfl

/-- The fields of a chunk, read where the reader reads them (R92). -/
theorem chunk_parts (n type crc : Word) (payload rest : List Byte) (hn : n.toNat = payload.length) :
    let bs := enc32 n ++ enc32 type ++ payload ++ enc32 crc ++ rest
    bs.length = 12 + payload.length + rest.length ∧ be32Of (bs.take 4) = n ∧ be32Of ((bs.drop 4).take 4) = type ∧
    (bs.drop 8).take n.toNat = payload ∧ be32Of ((bs.drop (8 + n.toNat)).take 4) = crc ∧ bs.drop (12 + n.toNat) = rest := by
  have h8 : (enc32 n ++ enc32 type ++ payload ++ enc32 crc ++ rest).drop 8 = payload ++ (enc32 crc ++ rest) := by
    simp [enc32]
  refine ⟨by simp; omega, ?_, ?_, ?_, ?_, ?_⟩
  · exact be32Of_enc32 n
  · exact be32Of_enc32 type
  · rw [h8, hn, List.take_left]
  · rw [← List.drop_drop, h8, hn, List.drop_left]; exact be32Of_enc32 crc
  · rw [show 12 + n.toNat = 8 + (n.toNat + 4) by omega, ← List.drop_drop, h8, ← List.drop_drop, hn, List.drop_left]; rfl

/-- The fields of an IHDR payload (R94). -/
theorem headerOf_ihdrPayload (w h : Word) (bd ct cm fm il : Byte): headerOf (enc32 w ++ enc32 h ++ [bd, ct, cm, fm, il]) = some { w := w, h := h, bitDepth := bd, colorType := ct, compression := cm, filterMethod := fm, interlace := il } := by
  show some _ = some _
  congr 2
  · exact be32Of_enc32 w
  · exact be32Of_enc32 h

/-- Writing one chunk with a port that works. -/
theorem writeChunk_ok (s : State) (h : s.ports.outFail = none) (type : Word) (payload : List Byte) :
    writeChunk type payload s = .ok (appended type payload s) := by
  unfold writeChunk
  dsimp only
  rw [emitOut_ok _ _ (by show portFails s.ports.outFail _ _ = _; rw [h]; rfl)]
  unfold appended
  have : (enc32 (BitVec.ofNat 32 payload.length) ++ enc32 type ++ payload ++ enc32 (crcComplement (crcBytes crcInitial (enc32 type ++ payload)))).length = 12 + payload.length := by simp; omega
  simp only [crcOver, this]
  rfl

/-- A chunk read back by the function of R226. -/
theorem readChunk_chunkBytes (b : Build) (type : Word) (payload inp rest : List Byte) (p : Nat)
    (hl : payload.length ≤ b.maxLen.toNat) (hi : inp.drop p = chunkBytes type payload ++ rest) :
    readChunk b inp p = .ok (type, payload, p + 12 + payload.length) := by
  have hn : (BitVec.ofNat 32 payload.length).toNat = payload.length := by
    have := b.maxLen.isLt
    rw [BitVec.toNat_ofNat, Nat.mod_eq_of_lt (by omega)]
  have e : chunkBytes type payload ++ rest = enc32 (BitVec.ofNat 32 payload.length) ++ enc32 type ++ payload ++
      enc32 (crc32 (enc32 type ++ payload)) ++ rest := rfl
  obtain ⟨p1, p2, p3, p4, p5, p6⟩ :=
    chunk_parts (BitVec.ofNat 32 payload.length) type (crc32 (enc32 type ++ payload)) payload rest hn
  have p7 : ((chunkBytes type payload ++ rest).drop 4).take (4 + payload.length) = enc32 type ++ payload := by
    have : (chunkBytes type payload ++ rest).drop 4 =
        (enc32 type ++ payload) ++ (enc32 (crc32 (enc32 type ++ payload)) ++ rest) := by simp [chunkBytes, enc32]
    rw [this, List.take_left' (by simp)]
  unfold readChunk
  rw [← e] at p1 p2 p3 p4 p5 p6
  simp only [hi, p1, p2, p3, p4, p5]
  rw [hn, p7, if_neg (by omega), if_neg (by omega), if_neg (by omega), if_neg (by omega), if_neg (by omega),
    if_neg (by simp)]

end Sys2Proof.Machine
end

