-- ==== Sys2Proof/Laws/Invariant.lean ====
section
/-! SUPPORT. What every proof about the invariant needs once: taking an exception keeps it, and between commands it looks at
few fields. -/

namespace Sys2Proof.Machine

/-- `t` is what an error makes of `s`, as far as the invariant looks (R240). -/
structure FailedFrom (s t : State) : Prop where
  st : t.st = .failed
  kind : t.err.kind ≠ 0
  zb : t.zbuf = []
  fb : t.fbuf = []
  status : t.status = { s.status with busy := false, failed := true }
  img : t.img = s.img
  pix : t.pix = s.pix
  cfg : t.cfg = s.cfg
  build : t.build = s.build

/-- Taking an exception keeps the invariant. -/
theorem inv_failed {s t : State} (h : Inv s) (hrun : s.st.running = true) (f : FailedFrom s t) : Inv t := by
  have hd : s.status.done = false := by
    rw [h.doneIffDone]; cases hs : s.st <;> simp_all [SeqState.running, SeqState.code]
  have hst := f.st
  constructor <;> try simp [hst, SeqState.running, SeqState.code, SeqState.decoding, SeqState.encoding, State.inRows, f.status, f.zb, f.fb, hd]
  · rw [f.pix]; exact h.pixWf
  · rw [f.cfg]; exact h.fctlLegal
  · rw [f.cfg]; exact h.idatmaxLegal
  · exact f.kind
  · intro hv
    rw [f.img, f.build]
    refine ⟨(h.validImage hv).1, fun a ha => ?_⟩
    rw [f.pix]; exact (h.validImage hv).2 a (by simpa [State.imageBytes, f.img] using ha)

/-- `raise` on a state that has changed only where the invariant does not look. -/
theorem raise_failedFrom (c : Cause) (s u : State)
    (h1 : u.status = s.status) (h2 : u.img = s.img) (h3 : u.pix = s.pix) (h4 : u.cfg = s.cfg) (h5 : u.build = s.build) : FailedFrom s (raise c u) := by
  constructor <;> simp [Cause.report, h1, h2, h3, h4, h5]

/-- Nothing follows an operation that raised (R225). -/
theorem onNext_failed {t : State} (hs : t.st = .failed) : onNext (.next t) advance = .next t := by
  simp [onNext, advance, hs]

/-- A header with no defect has an accepted size. -/
theorem defect_none {b : Build} {h : Header} (hd : headerDefect b h = none) : sizeOk b h.w h.h := by
  unfold headerDefect at hd
  split at hd; · cases hd
  rename_i h0
  repeat (split at hd; · cases hd)
  rename_i h6
  rw [not_or] at h0 h6
  refine ⟨?_, Nat.le_of_not_gt h6.1, ?_, Nat.le_of_not_gt h6.2⟩
  · have := h0.1
    exact Nat.one_le_iff_ne_zero.2 fun e => this (BitVec.eq_of_toNat_eq (by simpa using e))
  · have := h0.2
    exact Nat.one_le_iff_ne_zero.2 fun e => this (BitVec.eq_of_toNat_eq (by simpa using e))

/-- 13 bytes are a header. -/
theorem headerOf_some {p : List Byte} (h : p.length = 13) : ∃ x, headerOf p = some x := by
  match p, h with
  | [a0,a1,a2,a3,a4,a5,a6,a7,a8,a9,a10,a11,a12], _ => exact ⟨_, rfl⟩

/-- What the loop of R154 can do. -/
theorem emitLoop_cases : ∀ (fuel : Nat) (s : State),
   (∃ t, emitIdatLoop fuel s = .ok t ∧ t = { s with crcacc := t.crcacc, rd := t.rd, ports := t.ports, wr := t.wr } ∧
      (s.wr.opos = s.ports.out.length → t.wr.opos = t.ports.out.length)) ∨
   (∃ u, emitIdatLoop fuel s = .raised (raise .writeFailed u) ∧ u = { s with crcacc := u.crcacc, rd := u.rd, ports := u.ports, wr := u.wr, fresh := u.fresh }) := by
  intro fuel
  induction fuel with
  | zero => intro s; exact .inl ⟨s, rfl, rfl, id⟩
  | succ fuel ih =>
    intro s
    unfold emitIdatLoop
    split
    · dsimp only
      rcases writeChunk_cases typeIDAT ((s.zbuf.drop s.wr.zpos).take (min s.cfg.idatmax.toNat (s.zbuf.length - s.wr.zpos))) s with ⟨t, ht, e⟩ | ⟨u, hu, e⟩
      · rw [ht]
        simp only [Flow.andThen]
        rcases ih { t with wr := { t.wr with zpos := t.wr.zpos + min s.cfg.idatmax.toNat (s.zbuf.length - s.wr.zpos) } } with ⟨t', ht', e', ho⟩ | ⟨u', hu', e'⟩
        · refine .inl ⟨t', ht', ?_, ?_⟩
          · rw [e', e]
          · intro h; apply ho; rw [e]; simp [h]
        · refine .inr ⟨u', hu', ?_⟩
          rw [e', e]
      · rw [hu]; exact .inr ⟨u, rfl, by rw [e]⟩
    · exact .inl ⟨s, rfl, rfl, id⟩

/-- With no command running the state is one of three. -/
theorem idle_not {s : State} (h : Inv s) (hb : s.status.busy = false) : s.st = .start ∨ s.st = .done ∨ s.st = .failed := by
  have := h.busyIffRunning; rw [hb] at this
  revert this; clear hb h
  cases s.st <;> simp [SeqState.running, SeqState.code]

/-- Between commands the invariant looks at no more than this. -/
theorem inv_idle {s t : State} (h : Inv s) (hb : s.status.busy = false) (e1 : t.st = s.st) (e2 : t.status = s.status) (e3 : t.img = s.img)
    (e4 : t.pix = s.pix) (e5 : t.cfg = s.cfg) (e6 : t.err = s.err) (e7 : t.zbuf = s.zbuf) (e8 : t.fbuf = s.fbuf) (e9 : t.build = s.build) : Inv t := by
  have hst := idle_not h hb
  have hr : s.st.running = false := by rw [← h.busyIffRunning]; exact hb
  obtain ⟨h1,h2,h3,h4,h5,h6,h7,h8,h9,h10,h11,h12,h13,h14,h15,h16,h17,h18,h19⟩ := h
  have hx : t.imageBytes = s.imageBytes := by unfold State.imageBytes; rw [e3]
  constructor <;> try simp only [e1,e2,e3,e4,e5,e6,e7,e8,e9, hx]
  all_goals first | assumption | (rcases hst with hst | hst | hst <;> simp [hst, e1, SeqState.code, SeqState.encoding, State.inRows])

end Sys2Proof.Machine
end

