-- ==== Sys2Proof/Tests/Slice0.lean ====
section
/-! SUPPORT. Tests: the operand checks refuse an ill-formed term each; words written out from the spec's tables decode to the
operations they stand for; single operations on small states, the expected values from spec/95_test_vectors.md; and, for every
statement with hypotheses, a witness that meets them. -/

namespace Sys2Proof.Machine.Tests

open Sys2Proof Sys2Proof.Machine

/-! ### Helpers -/

/-- The state an operation answers, if it answers one. -/
def after (o : Result) : Option State :=
  match o with
  | .next s => some s
  | _ => none

/-- A state inside a row of an image of `w` by `h` pixels. -/
def inRow (st : SeqState) (w h : Word) (i : Nat) (fbuf prev cur : List Byte) : State :=
  { State.reset with
    st := st, micro := .bytes, fbuf := fbuf, prev := prev, cur := cur
    status := { State.reset.status with busy := true }
    hdr := { State.reset.hdr with w := w, h := h }
    fl := { ft := fbuf.getD 0 0, y := 0, i := i, fpos := 0 } }

/-- A state that reads chunks from `inp` at `pos`. -/
def reading (seen : Bool) (pos : Nat) (inp : List Byte) : State :=
  { State.reset with
    st := if seen then .collectDataChunks else .readIHDR
    status := { State.reset.status with busy := true }
    rd := { State.reset.rd with pos := pos, seenIhdr := seen }
    ports := { State.reset.ports with inp := inp } }

/-- The image of V17, 2 by 2, held between commands. -/
def holding : State :=
  { State.reset with
    st := .done
    status := { State.reset.status with done := true, pixvalid := true }
    img := { State.reset.img with width := 2, height := 2 }
    pix := [(0, 0x0A), (1, 0x14), (2, 0x1E), (3, 0x0F), (4, 0x12), (5, 0x28), (6, 0x0C), (7, 0x19), (8, 0x1C), (9, 0x14),
            (10, 0x16), (11, 0x2D)] }

/-- A state in which DECODE has just been accepted, with no input. -/
def starting : State :=
  { State.reset with st := .readSignature, status := { State.reset.status with busy := true }, epoch := 1 }

/-- `holding` with the pixel registers at `x`, `y`. -/
def pointing (x y : Word) : State := { holding with img := { holding.img with px := x, py := y } }

/-! ### The operand checks -/

theorem test_wf_command : Instr.wellFormed (.cmdReserved 1) = false ∧ Instr.wellFormed (.cmdReserved 2) = false ∧
    Instr.wellFormed (.cmdReserved 3) = false ∧ Instr.wellFormed (.cmdReserved 4) = false ∧
    Instr.wellFormed (.cmdReserved 5) = true := by decide

theorem test_wf_row : Instr.wellFormed (.rowIllegal 0) = false ∧ Instr.wellFormed (.rowIllegal 4) = false ∧
    Instr.wellFormed (.rowIllegal 5) = true := by decide

theorem test_wf_type : Instr.wellFormed (.chunkOther 0x49484452 []) = false ∧
    Instr.wellFormed (.chunkOther 0x49444154 []) = false ∧ Instr.wellFormed (.chunkOther 0x49454E44 []) = false ∧
    Instr.wellFormed (.chunkOther 0x69686472 []) = true := by decide

/-- A payload whose length does not fit the length field. -/
theorem test_wf_payload (type : Word) (p : List Byte) (h : p.length = 2 ^ 32) :
    Instr.wellFormed (.chunkIhdr p) = false ∧ Instr.wellFormed (.chunkIdat p) = false ∧
    Instr.wellFormed (.chunkIend p) = false ∧ Instr.wellFormed (.chunkOther type p) = false ∧
    Instr.wellFormed (.wrChunk type p) = false := by
  simp [Instr.wellFormed, payloadFits, h]

/-- There is such a payload. -/
theorem test_long_payload : (List.replicate (2 ^ 32) (0 : Byte)).length = 2 ^ 32 := List.length_replicate

/-! ### Words from the tables -/

/-- R109, R110. -/
theorem test_decode_cmd :
    (decode .cmd [0x01]).toOption = some (.decode, []) ∧ (decode .cmd [0x02]).toOption = some (.encode, []) ∧
    (decode .cmd [0x03]).toOption = some (.pixGet, []) ∧ (decode .cmd [0x04]).toOption = some (.pixSet, []) ∧
    (decode .cmd [0x00]).toOption = some (.cmdReserved 0x00, []) ∧
    (decode .cmd [0x05]).toOption = some (.cmdReserved 0x05, []) ∧
    (decode .cmd [0x81]).toOption = some (.cmdReserved 0x81, []) := by decide

/-- R91; one wrong bit in the last byte (V6). -/
theorem test_decode_signature :
    (decode .sigIn [0x89, 0x50, 0x4E, 0x47, 0x0D, 0x0A, 0x1A, 0x0A, 0x55]).toOption = some (.rdSig, [0x55]) ∧
    (decode .sigOut [0x89, 0x50, 0x4E, 0x47, 0x0D, 0x0A, 0x1A, 0x0A]).toOption = some (.wrSig, []) ∧
    (decode .sigIn [0x89, 0x50, 0x4E, 0x47, 0x0D, 0x0A, 0x1A, 0x0B]).toOption = none := by decide

/-- V7. -/
theorem test_decode_chunk_ihdr :
    (decode .chunkIn [0x00, 0x00, 0x00, 0x0D, 0x49, 0x48, 0x44, 0x52, 0x00, 0x00, 0x00, 0x01, 0x00, 0x00, 0x00, 0x01,
      0x08, 0x02, 0x00, 0x00, 0x00, 0x90, 0x77, 0x53, 0xDE]).toOption =
    some (.chunkIhdr [0x00, 0x00, 0x00, 0x01, 0x00, 0x00, 0x00, 0x01, 0x08, 0x02, 0x00, 0x00, 0x00], []) := by
  decide +kernel

/-- P2. -/
theorem test_decode_chunk_idat :
    (decode .chunkIn [0x00, 0x00, 0x00, 0x01, 0x49, 0x44, 0x41, 0x54, 0xF1, 0xE2, 0x82, 0xBF, 0x62]).toOption =
    some (.chunkIdat [0xF1], []) := by decide +kernel

/-- V3, and one bit of the CRC field wrong. -/
theorem test_decode_chunk_iend :
    (decode .chunkIn [0x00, 0x00, 0x00, 0x00, 0x49, 0x45, 0x4E, 0x44, 0xAE, 0x42, 0x60, 0x82]).toOption =
      some (.chunkIend [], []) ∧
    (decode .chunkIn [0x00, 0x00, 0x00, 0x00, 0x49, 0x45, 0x4E, 0x44, 0xAE, 0x42, 0x60, 0x83]).toOption = none := by
  decide +kernel

/-- V7. -/
theorem test_decode_chunk_other :
    (decode .chunkIn [0x00, 0x00, 0x00, 0x0A, 0x74, 0x45, 0x58, 0x74, 0x43, 0x6F, 0x6D, 0x6D, 0x65, 0x6E, 0x74, 0x00,
      0x68, 0x69, 0xA2, 0xA2, 0x58, 0x66]).toOption =
    some (.chunkOther 0x74455874 [0x43, 0x6F, 0x6D, 0x6D, 0x65, 0x6E, 0x74, 0x00, 0x68, 0x69], []) := by decide +kernel

/-- V16. -/
theorem test_decode_chunk_written :
    (decode .chunkOut [0x00, 0x00, 0x00, 0x00, 0x49, 0x44, 0x41, 0x54, 0x35, 0xAF, 0x06, 0x1E]).toOption =
    some (.wrChunk 0x49444154 [], []) := by decide +kernel

/-- R93. -/
theorem test_decode_emitted_type :
    (decode .typeOut [0x49, 0x48, 0x44, 0x52]).toOption = some (.emitIhdr, []) ∧
    (decode .typeOut [0x49, 0x44, 0x41, 0x54]).toOption = some (.emitIdat, []) ∧
    (decode .typeOut [0x49, 0x45, 0x4E, 0x44]).toOption = some (.emitIend, []) ∧
    (decode .typeOut [0x74, 0x45, 0x58, 0x74]).toOption = none := by decide

/-- R103, R105. -/
theorem test_decode_row_in :
    (decode .rowIn [0x00]).toOption = some (.reconNone, []) ∧ (decode .rowIn [0x01]).toOption = some (.reconSub, []) ∧
    (decode .rowIn [0x02]).toOption = some (.reconUp, []) ∧ (decode .rowIn [0x03]).toOption = some (.reconAvg, []) ∧
    (decode .rowIn [0x04]).toOption = some (.reconPaeth, []) ∧
    (decode .rowIn [0x05]).toOption = some (.rowIllegal 0x05, []) ∧
    (decode .rowIn [0xFF]).toOption = some (.rowIllegal 0xFF, []) := by decide

/-- R103. -/
theorem test_decode_row_out :
    (decode .rowOut [0x00]).toOption = some (.filtNone, []) ∧ (decode .rowOut [0x01]).toOption = some (.filtSub, []) ∧
    (decode .rowOut [0x02]).toOption = some (.filtUp, []) ∧ (decode .rowOut [0x03]).toOption = some (.filtAvg, []) ∧
    (decode .rowOut [0x04]).toOption = some (.filtPaeth, []) ∧ (decode .rowOut [0x05]).toOption = none := by decide

/-- R204. -/
theorem test_decode_register :
    (decode .reg [11]).toOption = some (.pixWidth, []) ∧ (decode .reg [12]).toOption = some (.pixHeight, []) ∧
    (decode .reg [13]).toOption = none := by decide

/-- R111: the operations with no bit pattern. -/
theorem test_no_pattern : encode .rdChunk = none ∧ encode .crcInit = none ∧ encode (.crcUpdate 0) = none ∧
    encode .crcFinal = none ∧ encode (.crcChunk 0 []) = none ∧ encode .zportInflate = none ∧
    encode .zportDeflate = none ∧ encode (.paeth 0 0 0) = none ∧ encode (.be32 0 0 0 0) = none ∧
    encode (.enc32 0) = none ∧ (decode .internal [0x00]).toOption = none := by decide

/-! ### Single operations -/

/-- V1: unsigned, the first byte most significant. -/
theorem test_be32 : (after (exec (.be32 0x80 0x00 0x01 0x0D) State.reset)).map (·.value) =
    some (.word 2147483917) := by decide

/-- V1. -/
theorem test_enc32 : (after (exec (.enc32 0x907753DE) State.reset)).map (·.value) =
    some (.bytes [0x90, 0x77, 0x53, 0xDE]) := by decide

/-- V3. -/
theorem test_crc_init : (after (exec .crcInit { State.reset with crcacc := 7 })).map (·.crcacc) = some 0xFFFFFFFF := by decide

/-- V3, V4. -/
theorem test_crc_update : (after (exec (.crcUpdate 0x49) State.reset)).map (·.crcacc) = some 0x22FDE946 := by decide

/-- V3. -/
theorem test_crc_final : (after (exec .crcFinal { State.reset with crcacc := 0x51BD9F7D })).map (·.value) =
    some (.word 0xAE426082) := by decide

/-- V7. -/
theorem test_crc_chunk : (after (exec (.crcChunk 0x49444154 [0xF1]) State.reset)).map (·.value) =
    some (.word 0xE282BF62) := by decide +kernel

/-- V2. -/
theorem test_crc32_check : crc32 [0x31, 0x32, 0x33, 0x34, 0x35, 0x36, 0x37, 0x38, 0x39] = 0xCBF43926 := by decide +kernel

/-- V6: a wrong first byte is reported with no type and offset 0. -/
theorem test_rd_sig : (after (exec .rdSig { State.reset with
      ports := { State.reset.ports with inp := [0x88, 0x50, 0x4E, 0x47, 0x0D, 0x0A, 0x1A, 0x0A] } })).map
    (fun t => (t.st, t.err.kind, t.err.cause, t.err.type, t.err.offset)) = some (.failed, 2, 1, 0, 0) := by decide

/-- V7: the IEND chunk at 60. -/
theorem test_rd_chunk : (after (exec .rdChunk (reading true 2
      [0xAA, 0xAA, 0x00, 0x00, 0x00, 0x00, 0x49, 0x45, 0x4E, 0x44, 0xAE, 0x42, 0x60, 0x82]))).map
    (fun t => (t.rd.pos, t.rd.chunkoff, t.rd.type, t.rd.crcrx, t.rd.seenIend)) =
    some (14, 2, 0x49454E44, 0xAE426082, true) := by decide +kernel

/-- P3: the error comes with both checksums. -/
theorem test_rd_chunk_corrupt : (after (exec .rdChunk (reading true 0
      [0x00, 0x00, 0x00, 0x00, 0x49, 0x45, 0x4E, 0x44, 0xAE, 0x42, 0x60, 0x02]))).map
    (fun t => (t.err.kind, t.err.cause, t.err.crcStored, t.err.crcComputed)) =
    some (3, 1, 0xAE426002, 0xAE426082) := by decide +kernel

/-- V10: bit depth 16 and colour type 0, the first test in order wins. -/
theorem test_chunk_ihdr : (after (exec (.chunkIhdr [0x00, 0x00, 0x00, 0x01, 0x00, 0x00, 0x00, 0x01, 0x10, 0x00, 0x00, 0x00, 0x00])
      { State.reset with rd := { State.reset.rd with len := 13 } })).map
    (fun t => (t.err.kind, t.err.cause, t.hdr.w, t.hdr.colorType)) = some (4, 1, 1, 0) := by decide

/-- R138. -/
theorem test_chunk_idat : (after (exec (.chunkIdat [0x01, 0x02]) { State.reset with zbuf := [0x09] })).map (·.zbuf) =
    some [0x09, 0x01, 0x02] := by decide

/-- V10: a length that is not 0. -/
theorem test_chunk_iend : (after (exec (.chunkIend [0x00]) { State.reset with rd := { State.reset.rd with len := 1 } })).map
    (fun t => (t.err.kind, t.err.cause)) = some (2, 11) := by decide

/-- R140. -/
theorem test_chunk_other : (after (exec (.chunkOther 0x74455874 [0x01]) holding)).map (fun t => decide (t = holding)) =
    some true := by decide

/-- R151. -/
theorem test_wr_sig : (after (exec .wrSig State.reset)).map (fun t => (t.ports.out, t.wr.opos)) =
    some ([0x89, 0x50, 0x4E, 0x47, 0x0D, 0x0A, 0x1A, 0x0A], 8) := by decide

/-- V16. -/
theorem test_wr_chunk : (after (exec (.wrChunk 0x49444154 []) State.reset)).map (·.ports.out) =
    some [0x00, 0x00, 0x00, 0x00, 0x49, 0x44, 0x41, 0x54, 0x35, 0xAF, 0x06, 0x1E] := by decide +kernel

/-- V16: width and height in that order. -/
theorem test_emit_ihdr : (after (exec .emitIhdr { State.reset with
      img := { State.reset.img with width := 2, height := 1 } })).map (·.ports.out) =
    some [0x00, 0x00, 0x00, 0x0D, 0x49, 0x48, 0x44, 0x52, 0x00, 0x00, 0x00, 0x02, 0x00, 0x00, 0x00, 0x01, 0x08, 0x02,
      0x00, 0x00, 0x00, 0x7B, 0x40, 0xE8, 0xDD] := by decide +kernel

/-- V16: three chunks of 7, 7 and 4 bytes. -/
theorem test_emit_idat : (after (exec .emitIdat { State.reset with
      cfg := { State.reset.cfg with idatmax := 7 }
      zbuf := [0x78, 0x01, 0x01, 0x07, 0x00, 0xF8, 0xFF, 0x01, 0x64, 0x96, 0xC8, 0x0A, 0xF6, 0x0A, 0x0A, 0x88, 0x02, 0xCE] })).map
      (·.ports.out) =
    some [0x00, 0x00, 0x00, 0x07, 0x49, 0x44, 0x41, 0x54, 0x78, 0x01, 0x01, 0x07, 0x00, 0xF8, 0xFF, 0x0C, 0x5D, 0x03, 0xFC,
      0x00, 0x00, 0x00, 0x07, 0x49, 0x44, 0x41, 0x54, 0x01, 0x64, 0x96, 0xC8, 0x0A, 0xF6, 0x0A, 0x3E, 0x5F, 0xA3, 0x76,
      0x00, 0x00, 0x00, 0x04, 0x49, 0x44, 0x41, 0x54, 0x0A, 0x88, 0x02, 0xCE, 0x24, 0x52, 0xC0, 0x6E] := by decide +kernel

/-- V16: an empty stream still gives one chunk. -/
theorem test_emit_idat_empty : (after (exec .emitIdat State.reset)).map (fun t => (t.ports.out.length, t.wr.opos)) =
    some (12, 12) := by decide +kernel

/-- V16. -/
theorem test_emit_iend : (after (exec .emitIend State.reset)).map (·.ports.out) =
    some [0x00, 0x00, 0x00, 0x00, 0x49, 0x45, 0x4E, 0x44, 0xAE, 0x42, 0x60, 0x82] := by decide +kernel

/-- V12, type 0 at `I = 3`. -/
theorem test_recon_none : (after (exec .reconNone (inRow .defilterRows 2 1 3 [0, 1, 2, 3, 250, 251, 252]
      [10, 20, 30, 40, 50, 60] [1, 2, 3]))).map (fun t => (t.curAt 3, t.fl.i)) = some (250, 4) := by decide

/-- V12, type 1 at `I = 3`: the sum wraps. -/
theorem test_recon_sub : (after (exec .reconSub (inRow .defilterRows 2 1 3 [1, 1, 2, 3, 250, 251, 252]
      [10, 20, 30, 40, 50, 60] [10, 2, 3]))).map (fun t => (t.curAt 3, t.fl.i)) = some (4, 4) := by decide

/-- V12, type 2 at `I = 3`. -/
theorem test_recon_up : (after (exec .reconUp (inRow .defilterRows 2 1 3 [2, 1, 2, 3, 250, 251, 252]
      [10, 20, 30, 40, 50, 60] [11, 22, 33]))).map (fun t => (t.curAt 3, t.fl.i)) = some (34, 4) := by decide

/-- V12, type 3 at `I = 3`: the reconstructed 6 is read, not the filtered 1. -/
theorem test_recon_avg : (after (exec .reconAvg (inRow .defilterRows 2 1 3 [3, 1, 2, 3, 250, 251, 252]
      [10, 20, 30, 40, 50, 60] [6, 12, 18]))).map (fun t => (t.curAt 3, t.fl.i)) = some (17, 4) := by decide

/-- V11, the 9-bit sum. -/
theorem test_recon_avg_wide : (after (exec .reconAvg (inRow .defilterRows 2 1 3 [3, 1, 2, 3, 1, 251, 252]
      [10, 20, 30, 255, 50, 60] [255, 12, 18]))).map (fun t => t.curAt 3) = some 0 := by decide

/-- V12, type 4 at `I = 3`. -/
theorem test_recon_paeth : (after (exec .reconPaeth (inRow .defilterRows 2 1 3 [4, 1, 2, 3, 250, 251, 252]
      [10, 20, 30, 40, 50, 60] [11, 22, 33]))).map (fun t => (t.curAt 3, t.fl.i)) = some (34, 4) := by decide

/-- P7. -/
theorem test_row_illegal : (after (exec (.rowIllegal 5) (inRow .defilterRows 1 1 0 [5, 255, 0, 0] [] []))).map
    (fun t => (t.err.kind, t.err.cause, t.err.type, t.err.offset)) = some (2, 13, 0x49444154, 0) := by decide

/-- V11: the ties. -/
theorem test_paeth : paeth 100 100 50 = 100 ∧ paeth 8 11 10 = 8 ∧ paeth 11 8 10 = 8 ∧ paeth 20 10 15 = 15 ∧
    paeth 12 15 10 = 15 ∧ paeth 25 18 20 = 25 ∧ paeth 28 40 30 = 40 := by decide

/-- V11. -/
theorem test_paeth_result : (after (exec (.paeth 20 10 15) State.reset)).map (·.value) = some (.byte 15) := by decide

/-- The state of V15 at `I`, with the filter type `ft`. -/
def v15 (ft : Byte) (i : Nat) : State :=
  inRow .filterRows 2 1 i [ft] [10, 20, 30, 15, 18, 40] [12, 25, 28, 20, 22, 45]

/-- V15, `I = 3`. -/
theorem test_filt_none : (after (exec .filtNone (v15 0 3))).map (fun t => (t.fbuf, t.fl.i)) = some ([0, 20], 4) := by decide
/-- V15, `I = 4`: the difference wraps. -/
theorem test_filt_sub : (after (exec .filtSub (v15 1 4))).map (fun t => (t.fbuf, t.fl.i)) = some ([1, 253], 5) := by decide
/-- V15, `I = 2`. -/
theorem test_filt_up : (after (exec .filtUp (v15 2 2))).map (fun t => (t.fbuf, t.fl.i)) = some ([2, 254], 3) := by decide
/-- V15, `I = 3`. -/
theorem test_filt_avg : (after (exec .filtAvg (v15 3 3))).map (fun t => (t.fbuf, t.fl.i)) = some ([3, 7], 4) := by decide
/-- V15, `I = 4`. -/
theorem test_filt_paeth : (after (exec .filtPaeth (v15 4 4))).map (fun t => (t.fbuf, t.fl.i)) = some ([4, 253], 5) := by decide

/-- V15: the costs, and the choice; the second row is the one with a tie. -/
theorem test_adaptive :
    ([FilterType.none, .sub, .up, .avg, .paeth].map fun t => cost t [12, 25, 28, 20, 22, 45] [10, 20, 30, 15, 18, 40]) =
      [152, 93, 23, 54, 22] ∧
    fsel 5 [12, 25, 28, 20, 22, 45] [10, 20, 30, 15, 18, 40] = .paeth ∧
    ([FilterType.none, .sub, .up, .avg, .paeth].map fun t => cost t [10, 20, 30, 15, 18, 40] [0, 0, 0, 0, 0, 0]) =
      [133, 77, 133, 103, 77] ∧
    fsel 5 [10, 20, 30, 15, 18, 40] [0, 0, 0, 0, 0, 0] = .sub := by decide +kernel

/-- V17. -/
theorem test_pix_get : (after (exec .pixGet (pointing 1 0))).map (fun t => (t.img.pr, t.img.pg, t.img.pb, t.status.oor)) =
    some (0x0F, 0x12, 0x28, false) := by decide

/-- V17: `x = width`. -/
theorem test_pix_get_out : (after (exec .pixGet (pointing 2 0))).map (fun t => (t.img.pr, t.status.byte)) =
    some (0, 0x1A) := by decide

/-- V17. -/
theorem test_pix_set : (after (exec .pixSet { pointing 0 1 with
      img := { (pointing 0 1).img with pr := 1, pg := 2, pb := 3 } })).map (fun t => t.pix.map (·.2)) =
    some [0x0A, 0x14, 0x1E, 0x0F, 0x12, 0x28, 1, 2, 3, 0x14, 0x16, 0x2D] := by decide

/-- V17: no byte changes. -/
theorem test_pix_set_out : (after (exec .pixSet (pointing 2 2))).map (fun t => (decide (t.pix = holding.pix), t.status.oor)) =
    some (true, true) := by decide

/-- R204. -/
theorem test_pix_size :
    (after (exec .pixWidth { holding with img := { holding.img with width := 7 } })).map (·.value) = some (.word 7) ∧
    (after (exec .pixHeight { holding with img := { holding.img with width := 7 } })).map (·.value) = some (.word 2) := by
  decide

/-- R212, R39. -/
theorem test_decode_accepted : (after (exec .decode holding)).map (fun t => (t.st, t.status.byte, t.img.width)) =
    some (.readSignature, 0x01, 0) := by decide

/-- R222: with no image ENCODE is refused. -/
theorem test_encode : (after (exec .encode holding)).map (fun t => (t.st, t.status.byte, t.hdr.w)) =
      some (.filterRows, 0x09, 2) ∧
    (after (exec .encode State.reset)).map (·.st) = some .start := by decide

/-- R110. -/
theorem test_cmd_reserved : (after (exec (.cmdReserved 0x00) holding)).map (fun t => decide (t = holding)) = some true := by
  decide

/-- V13: five bytes where four are needed. -/
theorem test_stream_length : (after (step { inRow .defilterRows 1 1 0 [0, 255, 0, 0, 0] [] [] with micro := .enter })).map
    (fun t => (t.err.kind, t.err.cause, t.err.offset)) = some (2, 12, 5) := by decide

/-- R206: the write of the last pixel of a 1 by 1 image makes it valid. -/
theorem test_pix_set_valid : (after (exec .pixSet { State.reset with
      img := { State.reset.img with width := 1, height := 1 } })).map (·.status.pixvalid) = some true := by decide

/-- R81, R32, R33: in a running ENCODE the host sees `STATE` and `WIDTH`, and no value of `FCTL`. -/
theorem test_read_while_busy : ∀ p ∈ [(Reg.state, OpValue.byte 9), (.width, .word 2), (.fctl, .none)],
    (after (step { holding with
      host := [.read p.1], st := .emitIDAT, status := { holding.status with busy := true, done := false } })).map (·.value) =
      some p.2 := by decide

/-- R133, R18: the function's error has its whole context: the IEND chunk of V3 with one bit of its CRC changed. -/
theorem test_read_chunk_report : (match readChunk Build.default
      [0xFF, 0x00, 0x00, 0x00, 0x00, 0x49, 0x45, 0x4E, 0x44, 0xAE, 0x42, 0x60, 0x83] 1 with
    | .ok _ => noReport
    | .error r => r) =
    { kind := 3, cause := 1, type := 0x49454E44, offset := 1, crcStored := 0xAE426083, crcComputed := 0xAE426082 } := by
  decide +kernel

/-- A word placed by `withFetchWord` is what the next step runs. -/
theorem test_fetch_word :
    (after (step (State.reset.withFetchWord 8 0x01))).map (·.st) = some .readSignature ∧
    (after (step (State.reset.withFetchWord 64 0x89504E470D0A1A0A))).map (fun t => (t.st, t.rd.pos)) =
      some (.readIHDR, 8) ∧
    (after (step (State.reset.withFetchWord 32 0x49454E44))).map (·.st) = some .inflate ∧
    (after (step (State.reset.withFetchWord 32 0x49484452))).map (·.err.cause) = some 8 := by decide +kernel

/-! ### Witnesses: for each statement with hypotheses, a state and operands that meet them -/

/-- A state in which the host's next move is `m`. -/
def hosted (m : HostMove) (s : State) : State := { s with host := [m] }

theorem witness_ResetHoldsTheTableValues : (hosted .reset (reading true 0 [])).host = .reset :: [] := rfl

theorem witness_DecodeOfEncodeIsTheInstruction :
    (Instr.wellFormed (.cmdReserved 0xFF) = true ∧ encode (.cmdReserved 0xFF) = some [0xFF]) ∧
    (Instr.wellFormed (.chunkOther 0x49484453 []) = true ∧
      encode (.chunkOther 0x49484453 []) = some (chunkBytes 0x49484453 [])) := ⟨⟨rfl, rfl⟩, ⟨rfl, rfl⟩⟩

/-- Formats that select an operation, and one that does not. -/
theorem witness_DecodedBytesAreTheEncoding : decode .cmd [0x03, 0x55] = .ok (.pixGet, [0x55]) ∧
    decode .rowIn [0x04] = .ok (.reconPaeth, []) ∧ decode .sigOut signature = .ok (.wrSig, []) := ⟨rfl, rfl, rfl⟩

theorem witness_CrcDetectsAnyErrorInsideOneByte : (0x00 : Byte) ≠ 0x80 := by decide

theorem witness_ReadSignatureAcceptsExactlyTheSignature : State.reset.ports.inFail = none := rfl

theorem witness_ReadChunkFramesInOrder : (reading true 0 []).ports.inFail = none := rfl

theorem witness_ReadChunkRunsTheDecodedChunk :
    let s := reading false 0 (chunkBytes typeIHDR (ihdrPayload 1 1))
    s.ports.inFail = none ∧ splitChunk (s.ports.inp.drop s.rd.pos) = .ok (typeIHDR, ihdrPayload 1 1, []) ∧
      (ihdrPayload 1 1).length ≤ s.build.maxLen.toNat := by
  refine ⟨rfl, ?_, by decide⟩
  have := splitChunk_chunkBytes typeIHDR (ihdrPayload 1 1) [] (by decide)
  rwa [List.append_nil] at this

/-- All four clauses; the header with the largest size. -/
theorem witness_ReadChunkCompletesOnEachType :
    (let s := reading true 0 (chunkBytes 0x69686472 []);
      s.rd.seenIhdr = true ∧ (0x69686472 : Word) ≠ typeIHDR ∧ (0x69686472 : Word) ≠ typeIDAT ∧
      (0x69686472 : Word) ≠ typeIEND ∧ s.ports.inp.drop s.rd.pos = chunkBytes 0x69686472 [] ++ []) ∧
    (let s := reading true 1 (0xAA :: chunkBytes typeIDAT []);
      s.rd.seenIhdr = true ∧ s.ports.inp.drop s.rd.pos = chunkBytes typeIDAT [] ++ []) ∧
    (let s := reading true 0 (chunkBytes typeIEND [] ++ [0xAA]);
      s.rd.seenIhdr = true ∧ s.ports.inp.drop s.rd.pos = chunkBytes typeIEND [] ++ [0xAA]) ∧
    (let s := reading false 0 (chunkBytes typeIHDR (ihdrPayload 1 0xFFFFFFFF));
      s.ports.inFail = none ∧ s.rd.seenIhdr = false ∧ 13 ≤ s.build.maxLen.toNat ∧ sizeOk s.build 1 0xFFFFFFFF ∧
      s.ports.inp.drop s.rd.pos = chunkBytes typeIHDR (ihdrPayload 1 0xFFFFFFFF) ++ []) :=
  ⟨⟨rfl, by decide, by decide, by decide, rfl⟩, ⟨rfl, rfl⟩, ⟨rfl, rfl⟩, ⟨rfl, rfl, by decide,
    ⟨by decide, by decide, by decide, by decide⟩, rfl⟩⟩

theorem witness_CorruptPayloadRaisesChecksumError :
    let s := reading true 0 (enc32 1 ++ enc32 typeIDAT ++ [0xF0] ++ enc32 (crc32 (enc32 typeIDAT ++ [0xF1])) ++ [])
    s.ports.inFail = none ∧ 0 < ([0xF1] : List Byte).length ∧ (0x01 : Byte) ≠ 0 ∧
      s.ports.inp.drop s.rd.pos = enc32 (BitVec.ofNat 32 ([0xF1] : List Byte).length) ++ enc32 typeIDAT ++
        ([0xF1] : List Byte).set 0 (([0xF1] : List Byte).getD 0 0 ^^^ 0x01) ++
        enc32 (crc32 (enc32 typeIDAT ++ [0xF1])) ++ [] := ⟨rfl, by decide, by decide, rfl⟩

/-- A step that takes the IEND chunk. -/
theorem witness_DataEndAndOtherChunkResults :
    let s := reading true 0 [0x00, 0x00, 0x00, 0x00, 0x49, 0x45, 0x4E, 0x44, 0xAE, 0x42, 0x60, 0x82]
    s.host = [] ∧ s.st = .collectDataChunks ∧ (after (step s)).map (·.rd.seenIend) = some true := by decide +kernel

theorem witness_HeaderChunkTestsInOrder : State.reset.rd.len ≠ 13 ∧
    ({ State.reset with rd := { State.reset.rd with len := 13 } } : State).rd.len = 13 := ⟨by decide, rfl⟩

/-- A state whose input port fails at `k`. -/
def failingAt (k : Nat) (s : State) : State := { s with ports := { s.ports with inFail := some k } }

/-- Both clauses, the failure at the two ends of the signature and at the last byte of a chunk. -/
theorem witness_FailingReadRaisesIoError :
    (let s := failingAt 0 (reading true 0 signature);
      s.ports.inFail = some 0 ∧ 0 < 8 ∧ 8 ≤ s.ports.inp.length) ∧
    (let s := failingAt 7 (reading true 0 signature);
      s.ports.inFail = some 7 ∧ 7 < 8 ∧ 8 ≤ s.ports.inp.length) ∧
    (let s := failingAt 12 (reading true 1 (0xAA :: chunkBytes typeIEND []));
      s.ports.inFail = some 12 ∧ s.rd.pos ≤ 12 ∧ 12 < s.rd.pos + 12 + ([] : List Byte).length ∧
      s.ports.inp.drop s.rd.pos = enc32 (BitVec.ofNat 32 ([] : List Byte).length) ++ enc32 typeIEND ++ [] ++
        enc32 (crc32 (enc32 typeIEND ++ [])) ++ []) :=
  ⟨⟨rfl, by decide, by decide⟩, ⟨rfl, by decide, by decide⟩, ⟨rfl, by decide, by decide, rfl⟩⟩

theorem witness_WriterAppendsSignatureAndChunk : State.reset.ports.outFail = none ∧
    ([] : List Byte).length < 2 ^ 32 := ⟨rfl, by decide⟩

theorem witness_WrittenChunkReadsBack :
    State.reset.ports.outFail = none ∧ ([0x01] : List Byte).length ≤ State.reset.build.maxLen.toNat ∧
      exec (.wrChunk typeIDAT [0x01]) State.reset = .next (appended typeIDAT [0x01] State.reset) := by
  refine ⟨rfl, by decide, ?_⟩
  show execWrChunk _ _ _ = _
  rw [execWrChunk, if_pos (by decide), writeChunk_ok _ rfl]
  rfl

theorem witness_EmitHeaderAndEndChunks : holding.ports.outFail = none := rfl

theorem witness_EmitDataCutsTheStream :
    holding.ports.outFail = none ∧ ({ holding.cfg with idatmax := 1 } : HostCfg).idatmax ≠ 0 ∧
      holding.cfg.idatmax ≠ 0 := ⟨rfl, by decide, by decide⟩

/-- Both clauses, the failure at the two ends of the write. -/
theorem witness_FailedWriteRaisesIoError :
    (let s : State := { State.reset with ports := { State.reset.ports with outFail := some 0 } };
      s.ports.outFail = some 0 ∧ s.wr.opos ≤ 0 ∧ 0 < s.wr.opos + 8) ∧
    (let s : State := { State.reset with ports := { State.reset.ports with outFail := some 7 } };
      s.ports.outFail = some 7 ∧ s.wr.opos ≤ 7 ∧ 7 < s.wr.opos + 8) ∧
    (let s : State := { State.reset with ports := { State.reset.ports with outFail := some 12 } };
      s.ports.outFail = some 12 ∧ s.wr.opos ≤ 12 ∧ 12 < s.wr.opos + (12 + ([0x01] : List Byte).length)) :=
  ⟨⟨rfl, by decide, by decide⟩, ⟨rfl, by decide, by decide⟩, ⟨rfl, by decide, by decide⟩⟩

/-- The first byte of a row, the first with a left neighbour, and the last. -/
theorem witness_ReconstructedByteOfEachType : ∀ i ∈ [0, 2, 3, 5],
    let s := inRow .defilterRows 2 1 i [1, 1, 2, 3, 250, 251, 252] [10, 20, 30, 40, 50, 60] [1, 2, 3, 4, 5]
    s.fl.i < 3 * s.hdr.w.toNat ∧ (s.fbuf[s.fl.fpos + 1 + s.fl.i]?).isSome := by decide

theorem witness_PaethPicksTheNearestNeighbour :
    (|(0 : Int) - 0| ≤ |(0 : Int) - 0|) ∧ (¬ (|(20 : Int) + 10 - 15 - 20| ≤ |(20 : Int) + 10 - 15 - 10| ∧
      |(20 : Int) + 10 - 15 - 20| ≤ |(20 : Int) + 10 - 15 - 15|)) := by decide

/-- Row 0 with `PREV` all zeros, at `I = 2` and `I = 3`. -/
theorem witness_EdgeIdentitiesOfTheFilters : ∀ i ∈ [2, 3],
    let s := inRow .defilterRows 2 1 i [3, 1, 2, 3, 250, 251, 252] [0, 0, 0, 0, 0, 0] [1, 2, 3]
    (∀ k ∈ List.range (3 * s.hdr.w.toNat), s.prevAt k = 0) ∧ s.fl.i < 3 * s.hdr.w.toNat ∧
      (s.fbuf[s.fl.fpos + 1 + s.fl.i]?).isSome := by decide

theorem witness_IllegalRowTypeRaisesFormatError : ∀ ft ∈ ([5, 255] : List Byte),
    let s := inRow .defilterRows 1 1 0 [ft, 255, 0, 0] [] []
    s.host = [] ∧ s.st = .defilterRows ∧ s.micro = .bytes ∧ 4 < s.fl.ft.toNat := by decide

theorem witness_StreamLengthIsCheckedBeforeAnyRow :
    let s : State := { inRow .defilterRows 1 1 0 [0, 255, 0, 0] [] [] with micro := .enter }
    s.host = [] ∧ s.st = .defilterRows ∧ s.micro = .enter ∧
      s.fbuf.length = s.hdr.h.toNat * (1 + 3 * s.hdr.w.toNat) := by decide

/-- The last row of the smallest image. -/
theorem witness_RowEndStoresTheRow :
    let s := inRow .defilterRows 1 1 3 [4, 255, 0, 0] [0, 0, 0] [255, 0, 0]
    s.host = [] ∧ s.st = .defilterRows ∧ s.micro = .bytes ∧ s.fl.ft.toNat ≤ 4 ∧ s.fl.i = 3 * s.hdr.w.toNat ∧
      s.fl.y.toNat < s.hdr.h.toNat := by decide

theorem witness_FilteredByteOfEachType : ∀ i ∈ [0, 2, 3, 5], (v15 0 i).fl.i < 3 * (v15 0 i).hdr.w.toNat := by decide

theorem witness_RowHeadLoadsAndChooses :
    let s : State := { inRow .filterRows 2 1 0 [] [0, 0, 0, 0, 0, 0] [] with micro := .row }
    s.host = [] ∧ s.st = .filterRows ∧ s.micro = .row ∧ s.fl.y.toNat < s.hdr.h.toNat := by decide

theorem witness_FilterChoiceFollowsTheRegister :
    cost .sub [10, 20, 30, 15, 18, 40] [0, 0, 0, 0, 0, 0] = cost .paeth [10, 20, 30, 15, 18, 40] [0, 0, 0, 0, 0, 0] := by
  decide +kernel

theorem witness_FilteringIsUndoneByReconstruction :
    ([1, 2, 3, 4, 5, 6] : List Byte).length = [FilterType.avg, FilterType.paeth].length * 3 := rfl

/-- In range and out of range. -/
theorem witness_PixelReadReturnsItsThreeBytes : (pointing 1 1).status.busy = false ∧
    (pointing 2 0).img.px.toNat ≥ (pointing 2 0).img.width.toNat := by decide

theorem witness_PixelWriteChangesItsThreeBytes :
    (pointing 1 1).status.busy = false ∧ (pointing 1 1).img.px.toNat < (pointing 1 1).img.width.toNat ∧
    (pointing 1 1).img.py.toNat < (pointing 1 1).img.height.toNat ∧
    (pointing 0 2).img.py.toNat ≥ (pointing 0 2).img.height.toNat ∧ (pointing 1 1).status.pixvalid = true ∧
    Memory.wf (pointing 1 1).pix := by decide

/-- The same pixel and another one. -/
theorem witness_PixelsDoNotAlias :
    (∃ t, exec .pixSet (pointing 1 0) = .next t) ∧ (pointing 1 0).status.busy = false ∧
    (pointing 1 0).img.px.toNat < (pointing 1 0).img.width.toNat ∧
    (pointing 1 0).img.py.toNat < (pointing 1 0).img.height.toNat ∧
    (1 : Word).toNat < (pointing 1 0).img.width.toNat ∧ (0 : Word).toNat < (pointing 1 0).img.height.toNat ∧
    (0 : Word).toNat < (pointing 1 0).img.width.toNat ∧ (1 : Word).toNat < (pointing 1 0).img.height.toNat :=
  ⟨⟨_, rfl⟩, by decide, by decide, by decide, by decide, by decide, by decide, by decide⟩

theorem witness_ImageBecomesValidWhenEveryPixelIsWritten :
    (hosted (.write (.width 3)) holding).status.busy = false ∧
    (hosted (.write (.width 3)) holding).host = .write (.width 3) :: [] ∧
    (hosted (.write (.height 3)) holding).host = .write (.height 3) :: [] ∧
    (∃ t, exec .pixSet (pointing 0 0) = .next t) ∧ Memory.wf (pointing 0 0).pix ∧ (pointing 0 0).status.busy = false ∧
    (pointing 0 0).img.px.toNat < (pointing 0 0).img.width.toNat ∧
    (pointing 0 0).img.py.toNat < (pointing 0 0).img.height.toNat :=
  ⟨rfl, rfl, rfl, ⟨_, rfl⟩, by decide, rfl, by decide, by decide⟩

/-- Every register, with no command running and with one. -/
theorem witness_RegisterReadsGiveTheirRegisters : ∀ r : Reg,
    ((hosted (.read r) holding).host = .read r :: [] ∧ (hosted (.read r) holding).status.busy = false) ∧
    ((hosted (.read r) starting).host = .read r :: [] ∧ (hosted (.read r) starting).status.busy = true) :=
  fun _ => ⟨⟨rfl, rfl⟩, ⟨rfl, rfl⟩⟩

theorem witness_IdleWritesSetTheirRegisters : (hosted (.write (.fctl 6)) holding).status.busy = false ∧
    ∀ w : RegWrite, (hosted (.write w) holding).host = .write w :: [] := ⟨rfl, fun _ => rfl⟩

theorem witness_BusyBlockRefusesEveryWrite : ∀ w : RegWrite, (hosted (.write w) starting).status.busy = true ∧
    (hosted (.write w) starting).host = .write w :: [] := fun _ => ⟨rfl, rfl⟩

theorem witness_ReservedCommandsChangeNothing :
    (hosted (.write (.cmd 0)) holding).host = .write (.cmd 0) :: [] ∧
    (0 : Byte) ≠ 1 ∧ (0 : Byte) ≠ 2 ∧ (0 : Byte) ≠ 3 ∧ (0 : Byte) ≠ 4 := by decide

theorem witness_AcceptanceReinitialises : starting.status.busy = true ∧ State.reset.status.pixvalid = false ∧
    State.reset.status.busy = false ∧ holding.status.busy = false ∧ holding.status.pixvalid = true := by decide

theorem witness_CommitInstallsTheImage :
    let s : State := { inRow .defilterRows 1 1 3 [0, 255, 0, 0] [255, 0, 0] [255, 0, 0] with
      micro := .row, fl := { ft := 0, y := 1, i := 3, fpos := 4 } }
    s.host = [] ∧ s.st = .defilterRows ∧ s.micro = .row ∧ s.hdr.h.toNat ≤ s.fl.y.toNat := by decide

/-- One witness for each clause. -/
theorem witness_StepRunsTheNextOperation :
    (starting.host = [] ∧ fetch starting = some .rdSig) ∧
    ((hosted .run starting).host = .run :: [] ∧ fetch (hosted .run starting) = some .rdSig) ∧
    ((hosted (.write (.cmd 3)) holding).host = .write (.cmd 3) :: [] ∧ decode .cmd [3] = .ok (.pixGet, [])) ∧
    (Reg.width.number = some 11 ∧ decode .reg [BitVec.ofNat 8 11] = .ok (.pixWidth, [])) ∧
    (let s := inRow .defilterRows 1 1 2 [4, 255, 0, 0] [0, 0, 0] [255, 0];
      s.st = .defilterRows ∧ s.micro = .bytes ∧ s.fl.i < 3 * s.hdr.w.toNat ∧
      decode .rowIn [s.fl.ft] = .ok (.reconPaeth, [])) ∧
    (let s := v15 1 0;
      s.st = .filterRows ∧ s.micro = .bytes ∧ s.fl.i < 3 * s.hdr.w.toNat ∧ decode .rowOut [s.fl.ft] = .ok (.filtSub, [])) ∧
    starting.st = .readSignature ∧ (reading false 8 []).st = .readIHDR ∧
    ((reading true 33 []).st = .collectDataChunks ∧ (reading true 33 []).rd.seenIend = false) :=
  ⟨⟨rfl, rfl⟩, ⟨rfl, rfl⟩, ⟨rfl, rfl⟩, ⟨rfl, rfl⟩, ⟨rfl, rfl, by decide, rfl⟩, ⟨rfl, rfl, by decide, rfl⟩, rfl, rfl, ⟨rfl, rfl⟩⟩

/-- A step of each direction, and one between commands. -/
theorem witness_StatesFollowTheDiagrams :
    (starting.host = [] ∧ ∃ t, step starting = .next t ∧ t.st = .failed) ∧
    ((v15 1 0).host = [] ∧ ∃ t, step (v15 1 0) = .next t) ∧ (holding.st.running = false ∧ ∃ t, step holding = .next t) :=
  ⟨⟨rfl, _, rfl, rfl⟩, ⟨rfl, _, rfl⟩, ⟨rfl, _, rfl⟩⟩

/-- A FormatError and a ChecksumError. -/
theorem witness_FailureReportsAndStops :
    (starting.host = [] ∧ starting.st ≠ .failed ∧ ∃ t, step starting = .next t ∧ t.st = .failed) ∧
    (after (step (reading true 0 [0x00, 0x00, 0x00, 0x00, 0x49, 0x45, 0x4E, 0x44, 0xAE, 0x42, 0x60, 0x02]))).map
      (fun t => (t.st, t.err.kind)) = some (.failed, 3) :=
  ⟨⟨rfl, by decide, _, rfl, rfl⟩, by decide +kernel⟩

/-- `Failed`, followed by a step of the block, an accepted DECODE, and a reset. -/
theorem witness_ReportStaysUntilTheNextCommand : ∀ m ∈ [HostMove.run, .write (.cmd 1), .reset],
    let s := hosted m (raise .badSignature starting)
    s.st = .failed ∧ (after (step s)).isSome := by decide

/-- A step of each direction. -/
theorem witness_BlockStepsKeepTheHostsState :
    (let s := inRow .defilterRows 1 1 0 [1, 5, 0, 0] [0, 0, 0] [];
      s.host = [] ∧ s.st ≠ .readSignature ∧ s.st.decoding = true ∧ (after (step s)).isSome) ∧
    (let s : State := { holding with st := .emitIEND, status := { holding.status with busy := true, done := false } };
      s.host = [] ∧ s.st.encoding = true ∧ (after (step s)).isSome) := by decide +kernel

theorem witness_DecodeIgnoresTheConfiguration : starting.host = [] ∧ starting.st.decoding = true := ⟨rfl, rfl⟩

/-- Each clause, the addresses one past the end. -/
theorem witness_StopsAreNamed :
    (let s := inRow .defilterRows 1 1 3 [1, 5, 0, 0] [0, 0, 0] [];
      3 * s.hdr.w.toNat ≤ s.fl.i) ∧
    (let s := inRow .defilterRows 1 1 2 [1, 5, 0] [0, 0, 0] [5, 0];
      s.fl.i < 3 * s.hdr.w.toNat ∧ s.fbuf.length ≤ s.fl.fpos + 1 + s.fl.i) ∧
    (({ State.reset with rd := { State.reset.rd with len := 13 } } : State).rd.len = 13 ∧ ([] : List Byte).length ≠ 13) ∧
    (let s : State := { State.reset with zbuf := [1], cfg := { State.reset.cfg with idatmax := 0 } };
      s.zbuf ≠ [] ∧ s.cfg.idatmax = 0) ∧
    2 ^ 32 ≤ (List.replicate (2 ^ 32) (0 : Byte)).length ∧
    (starting.status.busy = true ∧ (hosted (.input [] none) starting).host = .input [] none :: [] ∧
      (hosted (.output none) starting).host = .output none :: []) := by
  refine ⟨by decide, by decide, by decide, by decide, ?_, rfl, rfl, rfl⟩
  rw [List.length_replicate]

/-- The invariant holds of a state that is not the one after reset: DECODE has been accepted. -/
theorem starting_inv (host : List HostMove) : Inv { starting with host := host } := by
  constructor <;> simp [starting, State.reset, SeqState.running, SeqState.code, SeqState.decoding, SeqState.encoding,
    State.inRows]

theorem witness_EveryStepKeepsTheInvariant : Inv { starting with host := [] } ∧
    step { starting with host := [] } = .next (raise .badSignature starting) := ⟨starting_inv [], rfl⟩

/-- From the first state a step goes on; in the second the host changes a stream. -/
theorem witness_InvariantStepsNeverStop : Inv { starting with host := [] } ∧
    Inv { starting with host := [.input [] none] } := ⟨starting_inv _, starting_inv _⟩

theorem witness_FailedDecodeLeavesNoImage : Inv { starting with host := [] } ∧ starting.st.decoding = true ∧
    ∃ t, step { starting with host := [] } = .next t ∧ t.st = .failed := ⟨starting_inv _, rfl, _, rfl, rfl⟩

theorem witness_EveryCommandEnds : Inv { starting with host := [] } ∧ starting.status.busy = true := ⟨starting_inv _, rfl⟩

theorem witness_DecodeRunIsTheFunction : holding.host = [] ∧ holding.status.busy = false ∧ holding.ports.inFail = none :=
  ⟨rfl, rfl, rfl⟩

/-- The bytes of the image of V17. -/
def v17 : List Byte := [0x0A, 0x14, 0x1E, 0x0F, 0x12, 0x28, 0x0C, 0x19, 0x1C, 0x14, 0x16, 0x2D]

theorem witness_EncodeRunIsTheFunction :
    holding.host = [] ∧ holding.status.busy = false ∧ holding.ports.outFail = none ∧ holding.cfg.idatmax ≠ 0 ∧
      holding.holdsImage 2 2 v17 :=
  ⟨rfl, rfl, rfl, by decide, rfl, rfl, rfl, rfl, by decide⟩

/-- The adapter that changes nothing, and the 2 by 2 image cut into chunks of one byte. -/
theorem witness_RoundTripGivesTheImageBack :
    AdapterInverse some (fun f _ => some f) ∧ sizeOk Build.default 2 2 ∧ 13 ≤ Build.default.maxLen.toNat ∧
      (1 : Word) ≠ 0 ∧ (1 : Word).toNat ≤ Build.default.maxLen.toNat ∧ v17.length = (2 : Word).toNat * (2 : Word).toNat * 3 ∧
      ∃ bytes, encodeFun (fun f _ => some f) { fctl := 5, idatmax := 1, level := 6 } 2 2 v17 = .ok bytes :=
  ⟨fun _ _ _ h => h.symm, ⟨by decide, by decide, by decide, by decide⟩, by decide, by decide, by decide, rfl, _, rfl⟩

/-- Three IDAT chunks and one other chunk against one IDAT chunk. -/
theorem witness_ChunkLayoutDoesNotMatter :
    let cs : List (Word × List Byte) := [(typeIDAT, [1]), (0x74455874, [9]), (typeIDAT, []), (typeIDAT, [2, 3])]
    let ds : List (Word × List Byte) := [(typeIDAT, [1, 2, 3])]
    (∀ c ∈ cs, middleChunk Build.default c) ∧ (∀ c ∈ ds, middleChunk Build.default c) ∧ idatPayloads cs = idatPayloads ds ∧
      13 ≤ Build.default.maxLen.toNat ∧ sizeOk Build.default 1 1 := by
  refine ⟨?_, ?_, by decide, by decide, by decide, by decide, by decide, by decide⟩ <;>
  · intro c hc
    simp only [List.mem_cons, List.not_mem_nil, or_false] at hc
    rcases hc with rfl | rfl | rfl | rfl <;> exact ⟨by decide, by decide, by decide⟩

end Sys2Proof.Machine.Tests
end

section
/-! The step as one move: of the host while it has moves, else of the block. -/

namespace Sys2Proof.Machine

/-- With no move of the host waiting a step is the block's. -/
theorem step_of_host_nil {s : State} (h : s.host = []) : step s = blockMove s := by
  simp [step, oneStep, h]

/-- A waiting move of the host is the step. -/
theorem step_of_host_cons {s : State} {m : HostMove} {rest : List HostMove} (h : s.host = m :: rest) :
    step s = hostMove m { s with host := rest } := by
  simp [step, oneStep, h]

/-- A read of a register as a step: the value the host sees is delivered. -/
theorem step_read {s : State} {r : Reg} {rest : List HostMove} (h : s.host = .read r :: rest) :
    step s = .next { s with host := rest, value := seenReg r s } := by
  rw [step_of_host_cons h]
  exact hostRead_eq r _

/-- The host's write to a register other than `CMD`, at a time when no command runs. -/
theorem hostWrite_idle {w : RegWrite} {s : State} (hw : ∀ v, w ≠ .cmd v) (hb : s.status.busy = false) :
    hostWrite w s = .next (writeIdle w s) := by
  cases w with
  | cmd v => exact absurd rfl (hw v)
  | _ => simp [hostWrite, writeReg, hb]

/-- Such a write as a step. -/
theorem step_write_idle {s : State} {w : RegWrite} {rest : List HostMove} (h : s.host = .write w :: rest)
    (hw : ∀ v, w ≠ .cmd v) (hb : s.status.busy = false) :
    step s = .next (writeIdle w { s with host := rest }) := by
  rw [step_of_host_cons h]
  exact hostWrite_idle hw hb

/-- A value of `FCTL` above 5 leaves the register as it was (R32). -/
theorem writeIdle_fctl (v : Byte) (s : State) :
    writeIdle (.fctl v) s = { s with cfg := { s.cfg with fctl := if v.toNat ≤ 5 then v else s.cfg.fctl } } := by
  simp only [writeIdle]
  split <;> rfl

/-- The value 0 leaves `IDATMAX` as it was (R32). -/
theorem writeIdle_idatmax (v : Word) (s : State) :
    writeIdle (.idatmax v) s = { s with cfg := { s.cfg with idatmax := if v = 0 then s.cfg.idatmax else v } } := by
  simp only [writeIdle]
  split <;> rfl

/-! ### A running command refuses the register port -/

/-- Every command is refused while one runs (R212, R205, R110). -/
theorem exec_decodeCmd_busy {s : State} (h : s.status.busy = true) (v : Byte) : exec (decodeCmd v) s = .next s := by
  unfold decodeCmd
  split_ifs <;> simp [exec, execDecode, execEncode, execPixGet, execPixSet, execCmdReserved, h]

/-- Every write is refused while a command runs. -/
theorem hostWrite_busy {s : State} (h : s.status.busy = true) (w : RegWrite) : hostWrite w s = .next s := by
  cases w with
  | cmd v => exact exec_decodeCmd_busy h v
  | _ => simp [hostWrite, writeReg, h]

/-! ### Registers as the host reads them -/

/-- `STATUS` as a number: its five fields are its bits 0 to 4 (R30). -/
theorem status_byte_eq (t : Status) :
    t.byte = BitVec.ofNat 8 (t.busy.toNat + 2 * t.done.toNat + 4 * t.failed.toNat + 8 * t.pixvalid.toNat +
      16 * t.oor.toNat) := by
  obtain ⟨busy, done, failed, pixvalid, oor⟩ := t
  revert busy done failed pixvalid oor
  decide

/-- The registers that a read gives also while a command runs, as a list. -/
theorem readableBusy_iff (r : Reg) : r.readableBusy = true ↔ r ∈ [Reg.cmd, .status, .width, .height, .state] := by
  cases r <;> decide

/-- A running command hides every register but those. -/
theorem seenReg_hidden {r : Reg} {s : State} (hb : s.status.busy = true)
    (hr : r ∉ [Reg.cmd, .status, .width, .height, .state]) : seenReg r s = .none := by
  rw [← readableBusy_iff, Bool.not_eq_true] at hr
  simp [seenReg, hb, hr]

/-- A register that is not hidden gives what it holds. -/
theorem seenReg_shown {r : Reg} {s : State}
    (h : ¬ (s.status.busy = true ∧ r ∉ [Reg.cmd, .status, .width, .height, .state])) : seenReg r s = readReg r s := by
  rw [← readableBusy_iff] at h
  simpa [seenReg] using fun hb hr => absurd ⟨hb, by simp [hr]⟩ h

/-! ### The obligations of tier 1 -/

/-- Settles O1: the table of R38 is the definition of `State.reset`, and the host's move `reset` is `hardReset`. -/
theorem resetHoldsTheTableValues : Obligations.ResetHoldsTheTableValues := by
  unfold Obligations.ResetHoldsTheTableValues
  refine ⟨rfl, rfl, rfl, rfl, rfl, rfl, rfl, rfl, rfl, rfl, rfl, rfl, rfl, rfl, rfl, fun s rest h => ?_⟩
  rw [step_of_host_cons h]
  rfl

/-- Settles O39: a read delivers `seenReg`, which is nothing for a hidden register and `readReg` for every other. -/
theorem registerReadsGiveTheirRegisters : Obligations.RegisterReadsGiveTheirRegisters := by
  intro s r rest h
  refine ⟨seenReg r s, step_read h, ?_⟩
  split
  case isTrue hidden => exact seenReg_hidden hidden.1 hidden.2
  case isFalse shown =>
    rw [seenReg_shown shown]
    cases r <;> simp [readReg, status_byte_eq]

/-- Settles O40: between commands a write is `writeIdle`, whose two tests are those of R32. -/
theorem idleWritesSetTheirRegisters : Obligations.IdleWritesSetTheirRegisters := by
  intro s rest hb
  have write {w : RegWrite} (hw : ∀ v, w ≠ .cmd v) (h : s.host = .write w :: rest) := step_write_idle h hw hb
  refine ⟨fun v h => ?fctl, fun v h => ?idatmax, fun v => write (by simp), fun v => write (by simp),
    fun v => write (by simp), fun v => write (by simp), fun v => write (by simp), fun v => write (by simp)⟩
  case fctl => rw [write (by simp) h, writeIdle_fctl]
  case idatmax => rw [write (by simp) h, writeIdle_idatmax]

/-- Settles O41. -/
theorem busyBlockRefusesEveryWrite : Obligations.BusyBlockRefusesEveryWrite := by
  intro s w rest hb h
  rw [step_of_host_cons h]
  exact hostWrite_busy (s := { s with host := rest }) hb w

/-- Settles O52: at reset no command runs, nothing is valid, and every clause about a running command is empty. -/
theorem resetMeetsTheInvariant : Obligations.ResetMeetsTheInvariant := by
  unfold Obligations.ResetMeetsTheInvariant
  constructor <;>
    simp [State.reset, SeqState.running, SeqState.decoding, SeqState.encoding, SeqState.code, State.inRows]

end Sys2Proof.Machine
end

section
/-! The block's moves, said once: which operations it performs while each command runs, and what the sequencer's advance
can change. -/

namespace Sys2Proof.Machine

/-- A move of the block is an operation followed by the sequencer's advance, or a move between operations. -/
theorem blockMove_cases {s t : State} (h : blockMove s = .next t) :
    (∃ i u, fetch s = some i ∧ exec i s = .next u ∧ t = advance u) ∨ (fetch s = none ∧ innerMove s = .next t) := by
  unfold blockMove at h
  split at h
  case h_1 i hi =>
    cases hu : exec i s with
    | next u =>
      rw [hu] at h
      exact .inl ⟨i, u, hi, hu, (Host.Outcome.next.inj h).symm⟩
    | fault r => rw [hu] at h; cases h
    | refused r => rw [hu] at h; cases h
  case h_2 hn => exact .inr ⟨hn, h⟩

/-- A command runs, of one kind or the other, or none does. -/
theorem seqState_phases (st : SeqState) : st.running = false ∨ st.decoding = true ∨ st.encoding = true := by
  cases st <;> decide

/-- No state belongs to both commands. -/
theorem not_encoding_of_decoding {st : SeqState} (h : st.decoding = true) : st.encoding = false := by
  cases st <;> revert h <;> decide

/-- With no command running the block's move changes nothing (R215). -/
theorem blockMove_idle {s : State} (h : s.st.running = false) : blockMove s = .next s := by
  cases hs : s.st <;> simp [hs, SeqState.running, SeqState.code, blockMove, fetch, innerMove] at h ⊢

/-- The operations of DECODE (R215). -/
theorem fetch_decoding {s : State} {i : Instr} (hd : s.st.decoding = true) (h : fetch s = some i) :
    (i = .rdSig ∧ s.st = .readSignature) ∨ i = .rdChunk ∨ i = .zportInflate ∨ (∃ t, i = reconOf t) ∨
      ∃ ft, i = .rowIllegal ft := by
  unfold fetch at h
  cases hs : s.st <;> simp only [hs] at h hd
  case readSignature => cases h; simp
  case readIHDR => cases h; simp
  case collectDataChunks => split at h <;> cases h; simp
  case inflate => cases h; simp
  case defilterRows => grind
  all_goals cases hd

/-- The operations of ENCODE (R223). -/
theorem fetch_encoding {s : State} {i : Instr} (he : s.st.encoding = true) (h : fetch s = some i) :
    i = .wrSig ∨ i = .emitIhdr ∨ i = .emitIdat ∨ i = .emitIend ∨ i = .zportDeflate ∨ ∃ t, i = filtOf t := by
  unfold fetch at h
  cases hs : s.st <;> simp only [hs] at h he
  case filterRows => grind
  case deflate => cases h; simp
  case emitIHDR => split at h <;> cases h <;> simp
  case emitIDAT => cases h; simp
  case emitIEND => cases h; simp
  all_goals cases he

/-- The sequencer's advance moves the sequencer, and at the end of a command sets `BUSY`, `DONE` and empties the stream
buffers. -/
theorem advance_eq (s : State) : advance s = { s with
    st := (advance s).st, micro := (advance s).micro, zbuf := (advance s).zbuf, fbuf := (advance s).fbuf,
    status := { s.status with busy := (advance s).status.busy, done := (advance s).status.done } } := by
  unfold advance
  split <;> (try split) <;> rfl

end Sys2Proof.Machine
end

section
/-! DECODE and the configuration registers: every operation and every move of DECODE commutes with replacing them. The
replacement is distributed over an operation's branches; no branch is chosen by a configuration register, so both sides then
agree branch by branch. -/

namespace Sys2Proof.Machine

/-- `s` with other configuration registers. -/
def State.withCfg (s : State) (c : HostCfg) : State := { s with cfg := c }

/-- `f` neither reads nor writes the configuration registers. -/
def IgnoresCfg (f : State → Result) : Prop := ∀ s c, f (s.withCfg c) = onNext (f s) (·.withCfg c)

section
variable (s : State) (c : HostCfg)

@[simp] theorem withCfg_rd : (s.withCfg c).rd = s.rd := rfl
@[simp] theorem withCfg_fl : (s.withCfg c).fl = s.fl := rfl
@[simp] theorem withCfg_st : (s.withCfg c).st = s.st := rfl
@[simp] theorem withCfg_fbuf : (s.withCfg c).fbuf = s.fbuf := rfl
@[simp] theorem withCfg_zbuf : (s.withCfg c).zbuf = s.zbuf := rfl
@[simp] theorem withCfg_micro : (s.withCfg c).micro = s.micro := rfl
@[simp] theorem withCfg_build : (s.withCfg c).build = s.build := rfl
@[simp] theorem withCfg_inRead (p n : Nat) : (s.withCfg c).inRead p n = s.inRead p n := rfl

end

/-! ### `RD.CHUNK` -/

/-- What framing answers, with other configuration registers. -/
def Framed.withCfg (c : HostCfg) : Framed → Framed
  | .raised s => .raised (s.withCfg c)
  | .ok s payload => .ok (s.withCfg c) payload

theorem frameCrc_withCfg (p : Nat) (payload : List Byte) (s : State) (c : HostCfg) :
    frameCrc p payload (s.withCfg c) = (frameCrc p payload s).withCfg c := by
  simp only [frameCrc, withCfg_inRead, withCfg_rd, apply_ite (Framed.withCfg c)]
  cases s.inRead (p + 8 + s.rd.len.toNat) 4 with
  | none => rfl
  | some b =>
    simp only [apply_ite (Framed.withCfg c)]
    rfl

theorem framePayload_withCfg (p : Nat) (s : State) (c : HostCfg) :
    framePayload p (s.withCfg c) = (framePayload p s).withCfg c := by
  simp only [framePayload, withCfg_inRead, withCfg_rd, apply_ite (Framed.withCfg c)]
  cases s.inRead (p + 8) s.rd.len.toNat with
  | none => rfl
  | some payload =>
    simp only [frameCrc_withCfg]
    rfl

theorem frameType_withCfg (p : Nat) (s : State) (c : HostCfg) :
    frameType p (s.withCfg c) = (frameType p s).withCfg c := by
  simp only [frameType, withCfg_inRead, withCfg_rd, apply_ite (Framed.withCfg c)]
  cases s.inRead (p + 4) 4 with
  | none => rfl
  | some t =>
    simp only [← framePayload_withCfg]
    rfl

/-- A read of `IN` does not look at the reader's registers. -/
theorem inRead_of_rd (s : State) (rd : Reader) (p n : Nat) : { s with rd := rd }.inRead p n = s.inRead p n := rfl

theorem frameChunk_withCfg (s : State) (c : HostCfg) :
    frameChunk (s.withCfg c) = (frameChunk s).withCfg c := by
  simp only [frameChunk, withCfg_rd, inRead_of_rd, withCfg_inRead, apply_ite (Framed.withCfg c)]
  cases s.inRead s.rd.pos 4 with
  | none => rfl
  | some b =>
    simp only [apply_ite (Framed.withCfg c), ← frameType_withCfg]
    rfl

theorem onNext_ite (p : Prop) [Decidable p] (a b : Result) (f : State → State) :
    onNext (if p then a else b) f = if p then onNext a f else onNext b f := apply_ite (onNext · f) _ _ _

theorem execChunkIhdr_ignoresCfg (payload : List Byte) : IgnoresCfg (execChunkIhdr payload) := by
  intro s c
  simp only [execChunkIhdr, onNext_ite]
  cases headerOf payload with
  | none => rfl
  | some h =>
    simp only [withCfg_build]
    cases headerDefect s.build h <;> rfl

theorem dispatchChunk_ignoresCfg (payload : List Byte) : IgnoresCfg (dispatchChunk payload) := by
  intro s c
  simp only [dispatchChunk, onNext_ite, ← execChunkIhdr_ignoresCfg payload s c, execChunkIend]
  rfl

theorem execRdChunk_ignoresCfg : IgnoresCfg execRdChunk := by
  intro s c
  rw [execRdChunk, frameChunk_withCfg, execRdChunk]
  cases frameChunk s with
  | raised t => rfl
  | ok t payload => exact dispatchChunk_ignoresCfg payload t c

/-! ### The other operations of DECODE -/

theorem execRdSig_ignoresCfg : IgnoresCfg execRdSig := by
  intro s c
  simp only [execRdSig, inRead_of_rd, withCfg_inRead, onNext_ite]
  cases s.inRead 0 8 with
  | none => rfl
  | some b =>
    simp only [onNext_ite]
    rfl

theorem execZportInflate_ignoresCfg : IgnoresCfg execZportInflate := by
  intro s c
  simp only [execZportInflate, withCfg_zbuf]
  cases Config.inflate s.zbuf <;> rfl

theorem reconByte_ignoresCfg (t : FilterType) : IgnoresCfg (reconByte t) := by
  intro s c
  simp only [reconByte, withCfg_fbuf, withCfg_fl, onNext_ite]
  cases s.fbuf[s.fl.fpos + 1 + s.fl.i]? <;> rfl

/-! ### The sequencer -/

theorem advance_withCfg (s : State) (c : HostCfg) : advance (s.withCfg c) = (advance s).withCfg c := by
  simp only [advance, withCfg_st, withCfg_rd, withCfg_micro]
  split <;> try rfl
  all_goals
    simp only [apply_ite (State.withCfg · c)]
    rfl

theorem defilterEnter_withCfg (s : State) (c : HostCfg) :
    defilterEnter (s.withCfg c) = (defilterEnter s).withCfg c := by
  simp only [defilterEnter, apply_ite (State.withCfg · c)]
  rfl

theorem defilterRow_ignoresCfg : IgnoresCfg defilterRow := by
  intro s c
  simp only [defilterRow, withCfg_fbuf, withCfg_fl, onNext_ite]
  cases s.fbuf[s.fl.fpos]? <;> rfl

/-- The moves between the operations of DECODE. -/
theorem innerMove_decoding_withCfg {s : State} (hd : s.st.decoding = true) (c : HostCfg) :
    innerMove (s.withCfg c) = onNext (innerMove s) (·.withCfg c) := by
  simp only [innerMove, withCfg_st, withCfg_micro]
  cases hs : s.st <;> simp only [hs] at hd ⊢
  case defilterRows =>
    cases s.micro with
    | row => exact defilterRow_ignoresCfg s c
    | bytes => rfl
    | _ => exact congrArg _ (defilterEnter_withCfg s c)
  case filterRows => cases hd
  all_goals rfl

/-- The operations DECODE performs. -/
theorem exec_decoding_withCfg {s : State} {i : Instr} (hd : s.st.decoding = true) (hi : fetch s = some i) (c : HostCfg) :
    exec i (s.withCfg c) = onNext (exec i s) (·.withCfg c) := by
  rcases fetch_decoding hd hi with ⟨rfl, -⟩ | rfl | rfl | ⟨t, rfl⟩ | ⟨ft, rfl⟩
  · exact execRdSig_ignoresCfg s c
  · exact execRdChunk_ignoresCfg s c
  · exact execZportInflate_ignoresCfg s c
  · rw [exec_reconOf, exec_reconOf]
    exact reconByte_ignoresCfg t s c
  · rfl

theorem blockMove_decoding_withCfg {s : State} (hd : s.st.decoding = true) (c : HostCfg) :
    blockMove (s.withCfg c) = onNext (blockMove s) (·.withCfg c) := by
  have hf : fetch (s.withCfg c) = fetch s := rfl
  rw [blockMove, hf, blockMove]
  cases hi : fetch s with
  | none => exact innerMove_decoding_withCfg hd c
  | some i =>
    simp only [exec_decoding_withCfg hd hi c]
    cases exec i s with
    | next t => exact congrArg _ (advance_withCfg t c)
    | fault r => rfl
    | refused r => rfl

/-- Settles O50: a step of DECODE is a move of the block, and that commutes with replacing the configuration. -/
theorem decodeIgnoresTheConfiguration : Obligations.DecodeIgnoresTheConfiguration := by
  intro s c hs hd
  have hs' : (s.withCfg c).host = [] := hs
  rw [step_of_host_nil hs]
  exact (step_of_host_nil hs').trans (blockMove_decoding_withCfg hd c)

end Sys2Proof.Machine
end

section
/-! What a move of the block can change: nothing of the host's, and, while one command runs, nothing of the other's. -/

namespace Sys2Proof.Machine

/-! ### While DECODE runs -/

/-- `t` comes from `s` by what DECODE may change: nothing of the host's side, of the writer or of `OUT`. -/
structure DecodeChange (s t : State) : Prop where
  eq : t = { s with
    crcacc := t.crcacc, rd := t.rd, hdr := t.hdr, fl := t.fl, st := t.st
    status := { t.status with oor := s.status.oor }
    err := t.err
    img := { s.img with width := t.img.width, height := t.img.height }
    prev := t.prev, cur := t.cur, zbuf := t.zbuf, fbuf := t.fbuf, pix := t.pix, micro := t.micro }
  pos : s.st = .readSignature ∨ s.rd.pos ≤ t.rd.pos

theorem DecodeChange.refl (s : State) : DecodeChange s s := ⟨rfl, .inr le_rfl⟩

/-- Taking an exception afterwards stays within the relation (R240). -/
theorem DecodeChange.raise {s t : State} (h : DecodeChange s t) (c : Cause) : DecodeChange s (raise c t) :=
  ⟨by rw [h.eq]; rfl, h.pos⟩

/-- So does the sequencer's advance. -/
theorem DecodeChange.advance {s t : State} (h : DecodeChange s t) : DecodeChange s (advance t) := by
  refine ⟨by rw [advance_eq t, h.eq], ?_⟩
  rw [advance_eq t]
  exact h.pos

theorem execRdSig_change {s t : State} (hs : s.st = .readSignature) (h : execRdSig s = .next t) : DecodeChange s t := by
  unfold execRdSig at h
  refine ⟨?_, .inl hs⟩
  dsimp only at h
  split at h
  · cases h; rfl
  split at h
  · cases h; rfl
  split at h <;> cases h <;> rfl

/-- Framing that raises leaves `POS` at the chunk (R132): only the last branch of `frameCrc` moves it. -/
theorem frameChunk_raised_pos {s t : State} (h : frameChunk s = .raised t) : t.rd.pos = s.rd.pos := by
  unfold frameChunk frameType framePayload frameCrc at h
  dsimp only at h
  repeat' split at h
  all_goals cases h
  all_goals rfl

theorem DecodeChange.trans {s t u : State} (h : DecodeChange s t) (h' : DecodeChange t u) (hst : t.st = s.st) :
    DecodeChange s u := by
  refine ⟨by rw [h'.eq, h.eq], ?_⟩
  rcases h.pos with hs | hp
  · exact .inl hs
  · exact h'.pos.imp (fun ht => hst ▸ ht) (le_trans hp)

/-- Framing changes the reader alone. -/
theorem ReaderOnly.decodeChange {s t : State} (h : ReaderOnly s t) (hp : s.rd.pos ≤ t.rd.pos) : DecodeChange s t :=
  ⟨by rw [h.eq], .inr hp⟩

theorem execChunkIhdr_change {payload : List Byte} {s t : State} (h : execChunkIhdr payload s = .next t) :
    DecodeChange s t := by
  unfold execChunkIhdr at h
  split at h
  · cases h
    exact (DecodeChange.refl s).raise _
  split at h
  · cases h
  dsimp only at h
  split at h <;> cases h <;> exact ⟨rfl, .inr le_rfl⟩

theorem execChunkIend_change {payload : List Byte} {s t : State} (h : execChunkIend payload s = .next t) :
    DecodeChange s t := by
  unfold execChunkIend at h
  split at h <;> cases h
  · exact (DecodeChange.refl s).raise _
  · exact ⟨rfl, .inr le_rfl⟩

theorem dispatchChunk_change {payload : List Byte} {s t : State} (h : dispatchChunk payload s = .next t) :
    DecodeChange s t := by
  unfold dispatchChunk at h
  split at h
  · split at h
    · cases h
      exact (DecodeChange.refl s).raise _
    · exact execChunkIhdr_change h
  split at h
  · cases h
    exact (DecodeChange.refl s).raise _
  split at h
  · cases h
    exact ⟨rfl, .inr le_rfl⟩
  split at h
  · exact execChunkIend_change h
  · cases h
    exact .refl s

theorem execRdChunk_change {s t : State} (h : execRdChunk s = .next t) : DecodeChange s t := by
  unfold execRdChunk at h
  rcases frameChunk_cases s with ⟨c, u, hf, hu⟩ | ⟨u, payload, hf, hu, -, hpos, -⟩
  · rw [hf] at h
    cases h
    exact (hu.decodeChange (frameChunk_raised_pos hf).ge).raise c
  · rw [hf] at h
    have hst : u.st = s.st := by rw [hu.eq]
    exact (hu.decodeChange (by omega)).trans (dispatchChunk_change h) hst

theorem execZportInflate_change {s t : State} (h : execZportInflate s = .next t) : DecodeChange s t := by
  unfold execZportInflate at h
  split at h <;> cases h
  · exact (DecodeChange.refl s).raise _
  · exact ⟨rfl, .inr le_rfl⟩

theorem reconByte_change {ft : FilterType} {s t : State} (h : reconByte ft s = .next t) : DecodeChange s t := by
  obtain ⟨-, v, rfl⟩ := reconByte_cases ft s t h
  exact ⟨rfl, .inr le_rfl⟩

/-- What an operation of DECODE can change. -/
theorem exec_decoding_change {s t : State} {i : Instr} (hd : s.st.decoding = true) (hi : fetch s = some i)
    (h : exec i s = .next t) : DecodeChange s t := by
  rcases fetch_decoding hd hi with ⟨rfl, hs⟩ | rfl | rfl | ⟨ft, rfl⟩ | ⟨ft, rfl⟩
  · exact execRdSig_change hs h
  · exact execRdChunk_change h
  · exact execZportInflate_change h
  · exact reconByte_change (exec_reconOf ft s ▸ h)
  · cases h
    exact (DecodeChange.refl s).raise _

theorem defilterEnter_change (s : State) : DecodeChange s (defilterEnter s) := by
  unfold defilterEnter
  split
  · exact (DecodeChange.refl s).raise _
  · exact ⟨rfl, .inr le_rfl⟩

theorem defilterRow_change {s t : State} (h : defilterRow s = .next t) : DecodeChange s t := by
  unfold defilterRow at h
  split at h
  · split at h <;> cases h
    exact ⟨rfl, .inr le_rfl⟩
  · cases h
    exact ⟨rfl, .inr le_rfl⟩

theorem innerMove_decoding_change {s t : State} (hd : s.st.decoding = true) (h : innerMove s = .next t) :
    DecodeChange s t := by
  unfold innerMove at h
  cases hs : s.st <;> simp only [hs] at hd h
  case defilterRows =>
    cases hm : s.micro <;> simp only [hm] at h
    case row => exact defilterRow_change h
    case bytes => cases h; exact ⟨rfl, .inr le_rfl⟩
    all_goals cases h; exact defilterEnter_change s
  case filterRows => cases hd
  all_goals cases h; exact ⟨rfl, .inr le_rfl⟩

/-- What a move of the block can change while DECODE runs. -/
theorem blockMove_decoding_change {s t : State} (hd : s.st.decoding = true) (h : blockMove s = .next t) :
    DecodeChange s t := by
  rcases blockMove_cases h with ⟨i, u, hi, hu, rfl⟩ | ⟨-, h⟩
  · exact (exec_decoding_change hd hi hu).advance
  · exact innerMove_decoding_change hd h

/-! ### While ENCODE runs -/

/-- `t` comes from `s` by what ENCODE may change: nothing of the host's side but `OUT`, of `POS` or of the image. `OUT` only
grows, and unless an error was raised `OPOS` counts the bytes. -/
structure EncodeChange (s t : State) : Prop where
  eq : t = { s with
    crcacc := t.crcacc
    rd := { t.rd with pos := s.rd.pos }
    hdr := t.hdr, fl := t.fl, wr := t.wr, st := t.st
    status := { t.status with oor := s.status.oor, pixvalid := s.status.pixvalid }
    err := t.err, prev := t.prev, cur := t.cur, zbuf := t.zbuf, fbuf := t.fbuf
    ports := { s.ports with out := t.ports.out }
    micro := t.micro, fresh := t.fresh }
  out : s.ports.out <+: t.ports.out
  opos : t.st = .failed ∨ t.wr.opos + s.ports.out.length = s.wr.opos + t.ports.out.length

/-- The same by an operation: `STATE` stays, or an error was raised. -/
structure OperationChange (s t : State) : Prop extends EncodeChange s t where
  st : t.st = s.st ∨ t.st = .failed

/-- A change that writes nothing. -/
theorem EncodeChange.of_eq {s t : State} (h : t = { s with
    crcacc := t.crcacc
    rd := { t.rd with pos := s.rd.pos }
    hdr := t.hdr, fl := t.fl, wr := { t.wr with opos := s.wr.opos }, st := t.st
    status := { t.status with oor := s.status.oor, pixvalid := s.status.pixvalid }
    err := t.err, prev := t.prev, cur := t.cur, zbuf := t.zbuf, fbuf := t.fbuf, micro := t.micro, fresh := t.fresh }) :
    EncodeChange s t := by
  refine ⟨by rw [h], by rw [h], .inr ?_⟩
  rw [h]

theorem EncodeChange.advance {s t : State} (h : EncodeChange s t) : EncodeChange s (advance t) := by
  refine ⟨by rw [advance_eq t, h.eq], by rw [advance_eq t]; exact h.out, ?_⟩
  rcases h.opos with hf | ho
  · exact .inl (by simp [Machine.advance, hf])
  · rw [advance_eq t]
    exact .inr ho

/-- One part of an operation after another: what the second appends follows what the first did. -/
theorem OperationChange.trans {s t u : State} (h : OperationChange s t) (h' : OperationChange t u) :
    OperationChange s u where
  eq := by rw [h'.eq, h.eq]
  out := h.out.trans h'.out
  opos := by
    rcases h'.opos with hf | ho'
    · exact .inl hf
    rcases h.opos with hf | ho
    · exact .inl (h'.st.elim (·.trans hf) id)
    · exact .inr (by omega)
  st := h'.st.elim (fun hu => h.st.imp hu.trans hu.trans) .inr

/-- The state in which an operation that may raise ends. -/
def Flow.state : Flow → State
  | .ok s => s
  | .raised s => s

theorem Flow.result_eq (r : Flow) : r.result = .next r.state := by cases r <;> rfl

/-- `Emit(OUT, v)`: all of `v` arrives, or an unknown front part and IOError (R157). -/
theorem emitOut_change (v : List Byte) (s : State) : OperationChange s (emitOut v s).state := by
  unfold emitOut
  split
  · exact ⟨⟨rfl, List.prefix_append .., .inl rfl⟩, .inr rfl⟩
  · refine ⟨⟨rfl, List.prefix_append .., .inr ?_⟩, .inl rfl⟩
    simp only [Flow.state, List.length_append]
    omega

theorem writeChunk_change (type : Word) (payload : List Byte) (s : State) :
    OperationChange s (writeChunk type payload s).state := by
  refine OperationChange.trans ⟨.of_eq ?_, .inl ?_⟩ (emitOut_change _ _) <;> rfl

/-- Two parts of an operation, the second not performed if the first raised. -/
theorem OperationChange.andThen {s : State} {r : Flow} {f : State → Flow} (h : OperationChange s r.state)
    (hf : ∀ t, OperationChange t (f t).state) : OperationChange s (r.andThen f).state := by
  cases r with
  | ok t => exact h.trans (hf t)
  | raised t => exact h

/-- The loop of R154 is a sequence of chunks. -/
theorem emitIdatLoop_change (fuel : Nat) (s : State) : OperationChange s (emitIdatLoop fuel s).state := by
  induction fuel generalizing s with
  | zero => exact ⟨.of_eq rfl, .inl rfl⟩
  | succ fuel ih =>
    unfold emitIdatLoop
    split
    · refine (writeChunk_change _ _ s).andThen fun t => OperationChange.trans ⟨.of_eq ?_, .inl ?_⟩ (ih _) <;> rfl
    · exact ⟨.of_eq rfl, .inl rfl⟩

theorem execWrSig_change {s t : State} (h : execWrSig s = .next t) : EncodeChange s t := by
  have hc := (emitOut_change signature s).toEncodeChange
  unfold execWrSig at h
  cases hr : emitOut signature s with
  | ok u =>
    rw [hr] at h hc
    cases h
    exact hc
  | raised u =>
    rw [hr] at h
    replace hc : EncodeChange s u := by rwa [hr] at hc
    cases h
    exact ⟨by rw [hc.eq], hc.out, hc.opos⟩

theorem execEmitIhdr_change {s t : State} (h : execEmitIhdr s = .next t) : EncodeChange s t := by
  rw [execEmitIhdr, Flow.result_eq] at h
  cases h
  refine (OperationChange.trans ⟨.of_eq ?_, .inl ?_⟩ (writeChunk_change ..)).toEncodeChange <;> rfl

theorem execEmitIdat_change {s t : State} (h : execEmitIdat s = .next t) : EncodeChange s t := by
  simp only [execEmitIdat, Flow.result_eq] at h
  split at h
  · cases h
    refine (OperationChange.trans ⟨.of_eq ?_, .inl ?_⟩ (writeChunk_change ..)).toEncodeChange <;> rfl
  split at h <;> cases h
  refine (OperationChange.trans ⟨.of_eq ?_, .inl ?_⟩ (emitIdatLoop_change ..)).toEncodeChange <;> rfl

theorem execEmitIend_change {s t : State} (h : execEmitIend s = .next t) : EncodeChange s t := by
  rw [execEmitIend, Flow.result_eq] at h
  cases h
  exact (writeChunk_change ..).toEncodeChange

theorem execZportDeflate_change {s t : State} (h : execZportDeflate s = .next t) : EncodeChange s t := by
  unfold execZportDeflate at h
  split at h <;> cases h <;> exact .of_eq rfl

theorem filtByte_change {ft : FilterType} {s t : State} (h : filtByte ft s = .next t) : EncodeChange s t := by
  obtain ⟨-, v, rfl⟩ := filtByte_cases ft s t h
  exact .of_eq rfl

/-- What an operation of ENCODE can change. -/
theorem exec_encoding_change {s t : State} {i : Instr} (he : s.st.encoding = true) (hi : fetch s = some i)
    (h : exec i s = .next t) : EncodeChange s t := by
  rcases fetch_encoding he hi with rfl | rfl | rfl | rfl | rfl | ⟨ft, rfl⟩
  · exact execWrSig_change h
  · exact execEmitIhdr_change h
  · exact execEmitIdat_change h
  · exact execEmitIend_change h
  · exact execZportDeflate_change h
  · exact filtByte_change (exec_filtOf ft s ▸ h)

theorem filterRow_change (s : State) : EncodeChange s (filterRow s) := by
  unfold filterRow
  split <;> exact .of_eq rfl

theorem innerMove_encoding_change {s t : State} (he : s.st.encoding = true) (h : innerMove s = .next t) :
    EncodeChange s t := by
  unfold innerMove at h
  cases hs : s.st <;> simp only [hs] at he h
  case filterRows =>
    cases hm : s.micro <;> simp only [hm] at h <;> cases h
    case row => exact filterRow_change s
    all_goals exact .of_eq rfl
  case defilterRows => cases he
  all_goals cases h; exact .of_eq rfl

/-- What a move of the block can change while ENCODE runs. -/
theorem blockMove_encoding_change {s t : State} (he : s.st.encoding = true) (h : blockMove s = .next t) :
    EncodeChange s t := by
  rcases blockMove_cases h with ⟨i, u, hi, hu, rfl⟩ | ⟨-, h⟩
  · exact (exec_encoding_change he hi hu).advance
  · exact innerMove_encoding_change he h

/-! ### The obligation -/

/-- A move of the block while ENCODE does not run: DECODE's, or none (R215). -/
theorem blockMove_not_encoding_change {s t : State} (he : s.st.encoding = false) (h : blockMove s = .next t) :
    DecodeChange s t := by
  rcases seqState_phases s.st with hidle | hd | he'
  · rw [blockMove_idle hidle] at h
    cases h
    exact .refl s
  · exact blockMove_decoding_change hd h
  · rw [he] at he'; cases he'

/-- Settles O49: a move of the block is one of DECODE, of ENCODE, or none, and each keeps what its relation says. -/
theorem blockStepsKeepTheHostsState : Obligations.BlockStepsKeepTheHostsState := by
  intro s t hs h
  rw [step_of_host_nil hs] at h
  cases he : s.st.encoding with
  | false =>
    have hc := blockMove_not_encoding_change he h
    have hpos := hc.pos.resolve_left
    rw [hc.eq]
    exact ⟨hs, rfl, rfl, rfl, rfl, rfl, rfl, rfl, ⟨[], (List.append_nil _).symm, fun _ => rfl⟩, hpos, fun _ => rfl,
      fun h => nomatch h⟩
  | true =>
    have hc := blockMove_encoding_change he h
    have hd : s.st.decoding ≠ true := fun hd => by simp [not_encoding_of_decoding hd] at he
    obtain ⟨v, hv⟩ := hc.out
    have hout : ∃ v, t.ports.out = s.ports.out ++ v ∧ (t.st ≠ .failed → t.wr.opos = s.wr.opos + v.length) := by
      refine ⟨v, hv.symm, fun hf => ?_⟩
      have ho := hc.opos.resolve_left hf
      rw [← hv, List.length_append] at ho
      omega
    refine ⟨?_, ?_, ?_, ?_, ?_, ?_, ?_, ?_, hout, fun _ => ?_, fun h => absurd h hd, fun _ => ?_⟩ <;> rw [hc.eq]
    case refine_1 => exact hs
    case refine_10 => exact ⟨rfl, rfl, rfl⟩

end Sys2Proof.Machine
end

section
/-! The pixel memory as an array of pixels: the address of R66 numbers the pixels of an image without overlap, so what an
accessor reads and writes is one pixel (R75, R201, R202). -/

namespace Sys2Proof.Machine

/-- The number of the pixel that `PX` and `PY` name; its first byte is at `pixIndex` (R66). -/
def State.pixelNumber (s : State) : Nat := s.img.py.toNat * s.img.width.toNat + s.img.px.toNat

theorem pixIndex_eq (s : State) : s.pixIndex = s.pixelNumber * 3 := rfl

/-- The three bytes of pixel `n` of the pixel memory (R66). -/
def State.pixel (s : State) (n : Nat) : Byte × Byte × Byte :=
  (s.pixByte (n * 3), s.pixByte (n * 3 + 1), s.pixByte (n * 3 + 2))

/-- No two pixels of a row of `w` columns have one number (R66). -/
theorem rowMajor_inj {w x y x' y' : Nat} (hx : x < w) (hx' : x' < w) :
    y * w + x = y' * w + x' ↔ x = x' ∧ y = y' := by
  refine ⟨fun h => ?_, fun ⟨hxx, hyy⟩ => by rw [hxx, hyy]⟩
  obtain rfl : x = x' := by
    simpa [Nat.mod_eq_of_lt hx, Nat.mod_eq_of_lt hx'] using congrArg (· % w) h
  exact ⟨rfl, Nat.eq_of_mul_eq_mul_right (by omega) (Nat.add_right_cancel h)⟩

/-- A byte of the pixel memory after a write of a sequence. -/
theorem pixByte_writeBytes (s : State) (a k : Nat) (bs : List Byte) :
    { s with pix := s.pix.writeBytes a bs }.pixByte k =
      if a ≤ k ∧ k < a + bs.length then bs.getD (k - a) (Config.freePixel s.epoch k) else s.pixByte k := by
  simp only [State.pixByte, read_writeBytes, List.getD_eq_getElem?_getD]
  split <;> rfl

/-- Writing the three bytes of one pixel changes no other. -/
theorem pixel_writeBytes (s : State) (n m : Nat) (r g b : Byte) :
    { s with pix := s.pix.writeBytes (n * 3) [r, g, b] }.pixel m = if m = n then (r, g, b) else s.pixel m := by
  simp only [State.pixel, pixByte_writeBytes, List.length_cons, List.length_nil]
  by_cases same : m = n
  · simp [same]
  · rw [if_neg (by omega), if_neg (by omega), if_neg (by omega), if_neg same]

/-- `PIX.GET` in range (R201). -/
theorem exec_pixGet_inRange {s : State} (hb : s.status.busy = false) (hr : s.outOfRange = false) :
    exec .pixGet s = .next { s.setOor false with
      img := { s.img with pr := (s.pixel s.pixelNumber).1, pg := (s.pixel s.pixelNumber).2.1,
                          pb := (s.pixel s.pixelNumber).2.2 } } := by
  simp [exec, execPixGet, hb, hr, pixIndex_eq, State.pixel]

/-- `PIX.SET` in range writes one pixel (R202). -/
theorem exec_pixSet_inRange {s : State} (hb : s.status.busy = false) (hr : s.outOfRange = false) :
    exec .pixSet s = .next { s.setOor false with
      pix := s.pix.writeBytes (s.pixelNumber * 3) [s.img.pr, s.img.pg, s.img.pb] }.updatePixvalid := by
  simp [exec, execPixSet, hb, hr, pixIndex_eq]

theorem outOfRange_eq_false_iff (s : State) :
    s.outOfRange = false ↔ s.img.px.toNat < s.img.width.toNat ∧ s.img.py.toNat < s.img.height.toNat := by
  simp [State.outOfRange]

/-- What `PIX.SET` in range leaves: the registers it may change are in `STATUS`, and one pixel is written. -/
theorem pixSet_inRange_keeps {s t : State} (hb : s.status.busy = false) (hr : s.outOfRange = false)
    (h : exec .pixSet s = .next t) :
    t.img = s.img ∧ t.status.busy = false ∧
      ∀ n, t.pixel n = if n = s.pixelNumber then (s.img.pr, s.img.pg, s.img.pb) else s.pixel n := by
  rw [exec_pixSet_inRange hb hr] at h
  cases h
  exact ⟨rfl, hb, fun n => pixel_writeBytes s s.pixelNumber n _ _ _⟩

/-- Settles O36: `PIX.SET` writes one pixel by its number, and two pixels in range have one number only if they are the
same. -/
theorem pixelsDoNotAlias : Obligations.PixelsDoNotAlias := by
  intro s t x y hb hset hpx hpy hx hy
  obtain ⟨himg, hbt, hpixel⟩ := pixSet_inRange_keeps hb ((outOfRange_eq_false_iff s).2 ⟨hpx, hpy⟩) hset
  have hrange : ({ s with img := { s.img with px := x, py := y } } : State).outOfRange = false :=
    (outOfRange_eq_false_iff _).2 ⟨hx, hy⟩
  have hrange' : ({ t with img := { t.img with px := x, py := y } } : State).outOfRange = false := by
    rw [himg]
    exact hrange
  refine ⟨_, _, exec_pixGet_inRange hbt hrange', exec_pixGet_inRange hb hrange, ?_⟩
  have hsame : y.toNat * s.img.width.toNat + x.toNat = s.pixelNumber ↔ x = s.img.px ∧ y = s.img.py := by
    rw [← BitVec.toNat_inj, ← BitVec.toNat_inj]
    exact rowMajor_inj hx hpx
  rw [himg]
  simp only [← hsame]
  exact hpixel _

end Sys2Proof.Machine
end

section
/-! Where the model stops: each guard, with the condition on the state under which it is reached. -/

namespace Sys2Proof.Machine

/-- Past the row there is no cell of `CUR` to reconstruct (R65). -/
theorem reconByte_pastRow (t : FilterType) {s : State} (h : s.rowBytes ≤ s.fl.i) :
    reconByte t s = .fault .lineBufferAddress := by
  rw [reconByte, if_neg h.not_gt]

/-- Past the row there is no cell of `CUR` to filter (R65). -/
theorem filtByte_pastRow (t : FilterType) {s : State} (h : s.rowBytes ≤ s.fl.i) :
    filtByte t s = .fault .lineBufferAddress := by
  rw [filtByte, if_neg h.not_gt]

/-- Past the end of `F` there is no filtered byte (R60). -/
theorem reconByte_pastStream (t : FilterType) {s : State} (hi : s.fl.i < s.rowBytes)
    (hf : s.fbuf.length ≤ s.fl.fpos + 1 + s.fl.i) : reconByte t s = .fault .fStreamAddress := by
  rw [reconByte, if_pos hi, List.getElem?_eq_none hf]

/-- The header fields take 13 bytes (R94). -/
theorem headerOf_eq_none {payload : List Byte} (h : payload.length ≠ 13) : headerOf payload = none := by
  unfold headerOf
  split
  · exact absurd rfl h
  · rfl

theorem execChunkIhdr_payloadAddress {s : State} {payload : List Byte} (hl : s.rd.len = 13) (hp : payload.length ≠ 13) :
    execChunkIhdr payload s = .fault .payloadAddress := by
  rw [execChunkIhdr, if_neg (not_not.2 hl), headerOf_eq_none hp]

theorem execEmitIdat_idatNoProgress {s : State} (hz : s.zbuf ≠ []) (hm : s.cfg.idatmax = 0) :
    execEmitIdat s = .fault .idatNoProgress := by
  simp [execEmitIdat, hz, hm]

theorem execWrChunk_payloadTooLong {payload : List Byte} (h : 2 ^ 32 ≤ payload.length) (type : Word) (s : State) :
    execWrChunk type payload s = .refused .payloadTooLong := by
  rw [execWrChunk, if_neg h.not_gt]

theorem giveInput_busy {s : State} (hb : s.status.busy = true) (bs : List Byte) (failAt : Option Nat) :
    giveInput bs failAt s = .refused .inputChangedWhileBusy := by
  rw [giveInput, if_pos hb]

theorem giveOutput_busy {s : State} (hb : s.status.busy = true) (failAt : Option Nat) :
    giveOutput failAt s = .refused .outputChangedWhileBusy := by
  rw [giveOutput, if_pos hb]

/-- Settles O51: each stop is the failing branch of its guard. -/
theorem stopsAreNamed : Obligations.StopsAreNamed := by
  refine ⟨fun s t h => ?pastRow, fun s t hi hf => ?pastStream, fun s payload => execChunkIhdr_payloadAddress,
    fun s => execEmitIdat_idatNoProgress, fun s type payload h => execWrChunk_payloadTooLong h type s,
    fun s bs k rest hb => ⟨fun h => ?input, fun h => ?output⟩⟩
  case pastRow =>
    rw [exec_reconOf, exec_filtOf]
    exact ⟨reconByte_pastRow t h, filtByte_pastRow t h⟩
  case pastStream =>
    rw [exec_reconOf]
    exact reconByte_pastStream t hi hf
  case input =>
    rw [step_of_host_cons h]
    exact giveInput_busy (s := { s with host := rest }) hb bs k
  case output =>
    rw [step_of_host_cons h]
    exact giveOutput_busy (s := { s with host := rest }) hb k

end Sys2Proof.Machine
end

section
/-! The decoder and the encoder, said once: what the decoder answers on each format's bytes, and, for each of its opcode maps,
that the operation it selects is encoded in the bytes it was selected by. -/

namespace Sys2Proof.Machine

/-! ### What the decoder answers -/

/-- Every byte is a value of `CMD` (R109). -/
@[simp] theorem decode_cmd (code : Byte) (rest : List Byte) : decode .cmd (code :: rest) = .ok (decodeCmd code, rest) := rfl

/-- Every byte starts a row on decode (R103, R105). -/
@[simp] theorem decode_rowIn (ft : Byte) (rest : List Byte) : decode .rowIn (ft :: rest) = .ok (decodeRow ft, rest) := rfl

/-- The bytes that start a row on encode are the filter types (R103). -/
theorem decode_rowOut_ok {ft : Byte} {rest tail : List Byte} {i : Instr} (h : decode .rowOut (ft :: tail) = .ok (i, rest)) :
    ∃ t, FilterType.ofCode ft = some t ∧ i = filtOf t ∧ rest = tail := by
  simp only [decode] at h
  split at h <;> cases h
  next t ht => exact ⟨t, ht, rfl, rfl⟩

/-- A chunk is read as the operation its type selects (R93). -/
theorem decode_chunkIn (type : Word) {payload : List Byte} (h : payload.length < 2 ^ 32) (rest : List Byte) :
    decode .chunkIn (chunkBytes type payload ++ rest) = .ok (decodeChunk type payload, rest) := by
  simp only [decode, splitChunk_chunkBytes type payload rest h]

/-- The frame `WR.CHUNK` writes, read back (R152). -/
theorem decode_chunkOut (type : Word) {payload : List Byte} (h : payload.length < 2 ^ 32) (rest : List Byte) :
    decode .chunkOut (chunkBytes type payload ++ rest) = .ok (.wrChunk type payload, rest) := by
  simp only [decode, splitChunk_chunkBytes type payload rest h]

/-- A code that is none of the four commands is reserved (R110). -/
theorem decodeCmd_reserved {code : Byte} (h : code ≠ 1 ∧ code ≠ 2 ∧ code ≠ 3 ∧ code ≠ 4) :
    decodeCmd code = .cmdReserved code := by
  obtain ⟨h1, h2, h3, h4⟩ := h
  rw [decodeCmd, if_neg h1, if_neg h2, if_neg h3, if_neg h4]

/-- A type that is none of the three known ones selects the fourth operation (R140). -/
theorem decodeChunk_other {type : Word} (h : type ≠ typeIHDR ∧ type ≠ typeIDAT ∧ type ≠ typeIEND) (payload : List Byte) :
    decodeChunk type payload = .chunkOther type payload := by
  obtain ⟨hihdr, hidat, hiend⟩ := h
  rw [decodeChunk, if_neg hihdr, if_neg hidat, if_neg hiend]

/-- A filter type's code selects its reconstruct operation (R103). -/
theorem decodeRow_of_ofCode {ft : Byte} {t : FilterType} (h : FilterType.ofCode ft = some t) : decodeRow ft = reconOf t := by
  simp only [decodeRow, h]

/-- Every other byte selects the illegal row (R105). -/
theorem decodeRow_illegal {ft : Byte} (h : FilterType.ofCode ft = none) : decodeRow ft = .rowIllegal ft := by
  simp only [decodeRow, h]

/-! ### Decoding an encoding -/

/-- The encoder's bytes decode to the instruction, format by format: chunks by reading the frame back, the two operations with
an operand byte by the check that the byte is none of the others, and the rest by evaluation. -/
theorem decode_encode {i : Instr} {bs : List Byte} (hw : i.wellFormed = true) (he : encode i = some bs) (rest : List Byte) :
    decode i.format (bs ++ rest) = .ok (i, rest) := by
  cases i with
  | cmdReserved code =>
    cases he
    show decode .cmd (code :: rest) = _
    rw [decode_cmd, decodeCmd_reserved (of_decide_eq_true hw)]
  | rowIllegal ft =>
    cases he
    show decode .rowIn (ft :: rest) = _
    rw [decode_rowIn, decodeRow_illegal (ofCode_none.2 (of_decide_eq_true hw))]
  | chunkIhdr payload => cases he; exact decode_chunkIn typeIHDR (of_decide_eq_true hw) rest
  | chunkIdat payload => cases he; exact decode_chunkIn typeIDAT (of_decide_eq_true hw) rest
  | chunkIend payload => cases he; exact decode_chunkIn typeIEND (of_decide_eq_true hw) rest
  | chunkOther type payload =>
    cases he
    obtain ⟨htype, hlen⟩ := Bool.and_eq_true_iff.1 hw
    show decode .chunkIn (chunkBytes type payload ++ rest) = _
    rw [decode_chunkIn type (of_decide_eq_true hlen), decodeChunk_other (of_decide_eq_true htype)]
  | wrChunk type payload => cases he; exact decode_chunkOut type (of_decide_eq_true hw) rest
  | _ => cases he <;> rfl

/-! ### What is decoded is an encoding -/

/-- `e` is the encoding of the well-formed instruction `i` in the format `f`, which selects `i` unless `i` is invoked by name
(R111). -/
structure EncodedAs (f : Format) (i : Instr) (e : List Byte) : Prop where
  wellFormed : i.wellFormed = true
  format : i.format = f
  byName : i.byName = !f.selects
  encode : encode i = some e

/-- A value of `CMD` is the encoding of the command it selects (R109, R110). -/
theorem decodeCmd_encodedAs (code : Byte) : EncodedAs .cmd (decodeCmd code) [code] := by
  unfold decodeCmd
  split_ifs with h1 h2 h3 h4
  · subst h1; exact ⟨rfl, rfl, rfl, rfl⟩
  · subst h2; exact ⟨rfl, rfl, rfl, rfl⟩
  · subst h3; exact ⟨rfl, rfl, rfl, rfl⟩
  · subst h4; exact ⟨rfl, rfl, rfl, rfl⟩
  · exact ⟨decide_eq_true ⟨h1, h2, h3, h4⟩, rfl, rfl, rfl⟩

/-- A chunk is the encoding of the operation its type selects (R93). -/
theorem decodeChunk_encodedAs (type : Word) {payload : List Byte} (h : payload.length < 2 ^ 32) :
    EncodedAs .chunkIn (decodeChunk type payload) (chunkBytes type payload) := by
  have hlen : payloadFits payload = true := decide_eq_true h
  unfold decodeChunk
  split_ifs with hihdr hidat hiend
  · subst hihdr; exact ⟨hlen, rfl, rfl, rfl⟩
  · subst hidat; exact ⟨hlen, rfl, rfl, rfl⟩
  · subst hiend; exact ⟨hlen, rfl, rfl, rfl⟩
  · exact ⟨Bool.and_eq_true_iff.2 ⟨decide_eq_true ⟨hihdr, hidat, hiend⟩, hlen⟩, rfl, rfl, rfl⟩

theorem reconOf_encodedAs (t : FilterType) : EncodedAs .rowIn (reconOf t) [t.code] := by
  cases t <;> exact ⟨rfl, rfl, rfl, rfl⟩

theorem filtOf_encodedAs (t : FilterType) : EncodedAs .rowOut (filtOf t) [t.code] := by
  cases t <;> exact ⟨rfl, rfl, rfl, rfl⟩

/-- A byte is the encoding of the row it starts, illegal rows included (R103, R105). -/
theorem decodeRow_encodedAs (ft : Byte) : EncodedAs .rowIn (decodeRow ft) [ft] := by
  cases h : FilterType.ofCode ft with
  | some t =>
    rw [decodeRow_of_ofCode h, ofCode_some h]
    exact reconOf_encodedAs t
  | none =>
    rw [decodeRow_illegal h]
    exact ⟨decide_eq_true (ofCode_none.1 h), rfl, rfl, rfl⟩

/-- Four bytes with a value are the value's bytes (R101). -/
theorem eq_enc32_of_be32_eq {b0 b1 b2 b3 : Byte} {v : Word} (h : be32 b0 b1 b2 b3 = v) : [b0, b1, b2, b3] = enc32 v := by
  rw [← h, enc32_be32]

/-- The types that an emitting operation writes (R93, R150). -/
theorem decode_typeOut_ok {bs rest : List Byte} {i : Instr} (h : decode .typeOut bs = .ok (i, rest)) :
    ∃ type, bs = enc32 type ++ rest ∧ EncodedAs .typeOut i (enc32 type) := by
  simp only [decode] at h
  split at h
  case h_2 => cases h
  case h_1 t0 t1 t2 t3 tail =>
    refine ⟨be32 t0 t1 t2 t3, ?_⟩
    rw [enc32_be32]
    split_ifs at h with hihdr hidat hiend <;> cases h
    · exact ⟨rfl, rfl, rfl, rfl, congrArg some (eq_enc32_of_be32_eq hihdr).symm⟩
    · exact ⟨rfl, rfl, rfl, rfl, congrArg some (eq_enc32_of_be32_eq hidat).symm⟩
    · exact ⟨rfl, rfl, rfl, rfl, congrArg some (eq_enc32_of_be32_eq hiend).symm⟩

/-- What the decoder accepts is an encoding followed by the rest. -/
theorem encodedAs_of_decode {f : Format} {bs rest : List Byte} {i : Instr} (h : decode f bs = .ok (i, rest)) :
    ∃ e, EncodedAs f i e ∧ bs = e ++ rest := by
  cases f with
  | cmd =>
    cases bs with
    | nil => cases h
    | cons code tail => cases h; exact ⟨[code], decodeCmd_encodedAs code, rfl⟩
  | sigIn =>
    simp only [decode] at h
    split at h <;> cases h
    next hsig => exact ⟨signature, ⟨rfl, rfl, rfl, rfl⟩, by rw [← hsig, List.take_append_drop]⟩
  | sigOut =>
    simp only [decode] at h
    split at h <;> cases h
    next hsig => exact ⟨signature, ⟨rfl, rfl, rfl, rfl⟩, by rw [← hsig, List.take_append_drop]⟩
  | chunkIn =>
    simp only [decode] at h
    split at h <;> cases h
    next type payload hsplit =>
      obtain ⟨hbytes, hlen⟩ := splitChunk_ok _ _ _ _ hsplit
      exact ⟨chunkBytes type payload, decodeChunk_encodedAs type hlen, hbytes⟩
  | chunkOut =>
    simp only [decode] at h
    split at h <;> cases h
    next type payload hsplit =>
      obtain ⟨hbytes, hlen⟩ := splitChunk_ok _ _ _ _ hsplit
      exact ⟨chunkBytes type payload, ⟨decide_eq_true hlen, rfl, rfl, rfl⟩, hbytes⟩
  | typeOut =>
    obtain ⟨type, hbytes, henc⟩ := decode_typeOut_ok h
    exact ⟨enc32 type, henc, hbytes⟩
  | rowIn =>
    cases bs with
    | nil => cases h
    | cons ft tail => cases h; exact ⟨[ft], decodeRow_encodedAs ft, rfl⟩
  | rowOut =>
    cases bs with
    | nil => cases h
    | cons ft tail =>
      obtain ⟨t, ht, rfl, rfl⟩ := decode_rowOut_ok h
      exact ⟨[ft], ofCode_some ht ▸ filtOf_encodedAs t, rfl⟩
  | reg =>
    cases bs with
    | nil => cases h
    | cons n tail =>
      simp only [decode] at h
      split_ifs at h with h11 h12 <;> cases h
      · subst h11; exact ⟨[11], ⟨rfl, rfl, rfl, rfl⟩, rfl⟩
      · subst h12; exact ⟨[12], ⟨rfl, rfl, rfl, rfl⟩, rfl⟩
  | internal => cases h

/-! ### Words of the opcode table -/

/-- A 32-bit word is the type of a chunk with no payload. -/
theorem decodeTableWord_chunk (w : Nat) : decodeTableWord 32 w = some (decodeChunk (BitVec.ofNat 32 w) []) := by
  have h := decode_chunkIn (BitVec.ofNat 32 w) (payload := []) (by decide) []
  rw [List.append_nil] at h
  simp [decodeTableWord, tableBytes, h]

/-! ### The obligations of the encodings -/

/-- Settles O3, by `decode_encode`. -/
theorem decodeOfEncodeIsTheInstruction : Obligations.DecodeOfEncodeIsTheInstruction :=
  fun _ _ rest hw he => decode_encode hw he rest

/-- Settles O4, by `encodedAs_of_decode`. -/
theorem decodedBytesAreTheEncoding : Obligations.DecodedBytesAreTheEncoding := by
  intro f bs rest i h
  obtain ⟨e, henc, hbytes⟩ := encodedAs_of_decode h
  exact ⟨henc.wellFormed, henc.format, henc.byName, e, henc.encode, hbytes⟩

/-- Settles O5: the two operations deliver `be32` and `enc32`, whose numbers and inverses are known. -/
theorem bigEndianFieldsAreExactInverses : Obligations.BigEndianFieldsAreExactInverses := by
  refine ⟨fun s b0 b1 b2 b3 => ?_, fun s v => ?_, be32Of_enc32, enc32_be32⟩
  · rw [← be32_toNat]; rfl
  · rw [← enc32_toNat]; rfl

/-- The twelve bytes of R155. -/
theorem chunkBytes_iend :
    chunkBytes typeIEND [] = [0x00, 0x00, 0x00, 0x00, 0x49, 0x45, 0x4E, 0x44, 0xAE, 0x42, 0x60, 0x82] := by
  decide +kernel

/-- Settles O2: a table word of 32 bits is decoded by the opcode map of the chunk types, the twelve bytes of R155 are a chunk
of type IEND, and the other words are short enough to evaluate. -/
theorem specWordsDecodeToTheirOperations : Obligations.SpecWordsDecodeToTheirOperations := by
  have hiend : decode .chunkIn (chunkBytes typeIEND [] ++ []) = .ok (.chunkIend [], []) :=
    decode_chunkIn typeIEND (by decide) []
  rw [chunkBytes_iend] at hiend
  exact ⟨rfl, rfl, rfl, rfl, rfl, rfl, rfl, rfl, decodeTableWord_chunk _, decodeTableWord_chunk _, decodeTableWord_chunk _,
    decodeTableWord_chunk _, congrArg Except.toOption hiend, rfl, rfl, rfl, rfl, rfl, rfl, rfl, rfl, rfl, rfl, rfl, rfl⟩

end Sys2Proof.Machine
end

section
/-! The step and the operation that is next: a reserved command, the operation of a row, and the host's reads and commands. -/

namespace Sys2Proof.Machine

/-- The block performs the operation it fetches, then advances (R215, R223). -/
theorem blockMove_of_fetch {s : State} {i : Instr} (h : fetch s = some i) : blockMove s = onNext (exec i s) advance := by
  simp only [blockMove, h]

/-- Inside a row on decode the operation is the one the filter-type byte decodes to (R103). -/
theorem fetch_defilterRows {s : State} (hs : s.st = .defilterRows) (hm : s.micro = .bytes) (hi : s.fl.i < s.rowBytes) :
    fetch s = some (decodeRow s.fl.ft) := by
  cases ht : FilterType.ofCode s.fl.ft with
  | some t =>
    rw [decodeRow_of_ofCode ht]
    simp only [fetch, hs, hm, ht, if_true, if_pos hi]
  | none =>
    rw [decodeRow_illegal ht]
    simp only [fetch, hs, hm, ht, if_true]

/-- Inside a row on encode it is the filter operation of the row's type (R103). -/
theorem fetch_filterRows {s : State} {t : FilterType} (hs : s.st = .filterRows) (hm : s.micro = .bytes)
    (hi : s.fl.i < s.rowBytes) (ht : FilterType.ofCode s.fl.ft = some t) : fetch s = some (filtOf t) := by
  simp only [fetch, hs, hm, ht, if_true, if_pos hi]

/-- The host's read of a register whose number decodes to an operation is that operation (R204). -/
theorem hostRead_of_decode {r : Reg} {n : Nat} {i : Instr} {rest : List Byte} (hn : r.number = some n)
    (h : decode .reg [BitVec.ofNat 8 n] = .ok (i, rest)) (s : State) : hostRead r s = exec i s := by
  cases r with
  | width => cases hn; cases h; rfl
  | height => cases hn; cases h; rfl
  | _ => cases hn <;> cases h

/-- Settles O42: the operation answers its state, and a write of a reserved code is that operation. -/
theorem reservedCommandsChangeNothing : Obligations.ReservedCommandsChangeNothing := by
  have reserved (s : State) (code : Byte) : exec (.cmdReserved code) s = .next s := rfl
  refine ⟨reserved, fun s code rest hhost h1 h2 h3 h4 => ?_⟩
  rw [step_of_host_cons hhost]
  calc exec (decodeCmd code) { s with host := rest }
      = exec (.cmdReserved code) { s with host := rest } := by rw [decodeCmd_reserved ⟨h1, h2, h3, h4⟩]
    _ = .next { s with host := rest } := reserved _ _

/-- Settles O45: the step is the host's move or the block's, and `fetch` decodes a row's operation from `FT`. -/
theorem stepRunsTheNextOperation : Obligations.StepRunsTheNextOperation := by
  refine ⟨fun s i hhost hi => ?block, fun s i rest hhost hi => ?run, fun s v i rest hhost hi => ?command,
    fun s r n i rest hhost hn hi => ?read, fun s i hs hm hlt hi => ?decodeRow, fun s i hs hm hlt hi => ?encodeRow,
    fun s hs => ?signature, fun s hs => ?chunk⟩
  case block => rw [step_of_host_nil hhost, blockMove_of_fetch hi]
  case run =>
    rw [step_of_host_cons hhost]
    exact blockMove_of_fetch (s := { s with host := rest }) hi
  case command =>
    cases hi
    exact step_of_host_cons hhost
  case read =>
    rw [step_of_host_cons hhost]
    exact hostRead_of_decode hn hi _
  case decodeRow =>
    cases hi
    exact fetch_defilterRows hs hm hlt
  case encodeRow =>
    obtain ⟨t, ht, rfl, -⟩ := decode_rowOut_ok hi
    exact fetch_filterRows hs hm hlt ht
  case signature => simp only [fetch, hs]
  case chunk =>
    rcases hs with hs | ⟨hs, hend⟩
    · simp only [fetch, hs]
    · simp [fetch, hs, hend]

end Sys2Proof.Machine
end

section
/-! The CRC engine: its operations as equations, its parts in sequence, its table form, and the errors it detects. -/

namespace Sys2Proof.Machine

/-! ### The operations -/

/-- R121. -/
theorem exec_crcInit (s : State) : exec .crcInit s = .next { s with crcacc := crcInitial } := rfl

/-- R122. -/
theorem exec_crcUpdate (b : Byte) (s : State) :
    exec (.crcUpdate b) s = .next { s with crcacc := crcByte s.crcacc b } := rfl

/-- R123. -/
theorem exec_crcFinal (s : State) : exec .crcFinal s = .next { s with value := .word (crcComplement s.crcacc) } := rfl

/-- R124. -/
theorem exec_crcChunk (type : Word) (payload : List Byte) (s : State) :
    exec (.crcChunk type payload) s = .next { s with
      crcacc := crcBytes crcInitial (enc32 type ++ payload)
      value := .word (crcComplement (crcBytes crcInitial (enc32 type ++ payload))) } := rfl

/-- The shift steps are the iterates of one shift step. -/
theorem crcShifts_eq_iterate (n : Nat) (c : Word) : crcShifts n c = crcShift^[n] c := by
  induction n generalizing c with
  | zero => rfl
  | succ n ih => rw [crcShifts, ih, Function.iterate_succ_apply]

/-! ### Operations in sequence -/

/-- A sequence goes on from the state its first operation answers. -/
theorem execAll_cons {i : Instr} {s t : State} (h : exec i s = .next t) (is : List Instr) :
    execAll (i :: is) s = execAll is t := by
  simp only [execAll, h]

/-- A `CRC.UPDATE` for each byte of a sequence runs the sequence into `CRCACC`, whatever operations follow (R126). -/
theorem execAll_crcUpdates (bs : List Byte) (is : List Instr) (s : State) :
    execAll (bs.map .crcUpdate ++ is) s = execAll is { s with crcacc := crcBytes s.crcacc bs } := by
  induction bs generalizing s with
  | nil => rfl
  | cons b bs ih =>
    calc execAll (.crcUpdate b :: (bs.map .crcUpdate ++ is)) s
        = execAll (bs.map .crcUpdate ++ is) { s with crcacc := crcByte s.crcacc b } :=
          execAll_cons (exec_crcUpdate b s) _
      _ = execAll is { s with crcacc := crcBytes s.crcacc (b :: bs) } := ih _

/-! ### The table form -/

/-- The sum of a remainder and a byte, cut into its low byte and the rest. -/
theorem xor_byte_eq_low_xor_high (c : Word) (b : Byte) :
    c ^^^ b.setWidth 32 = (c.setWidth 8 ^^^ b).setWidth 32 ^^^ (c >>> 8) <<< 8 := by
  apply BitVec.eq_of_getLsbD_eq
  intro i hi
  by_cases h8 : i < 8
  · simp [hi, h8]
  · have hb : b.getLsbD i = false := BitVec.getLsbD_of_ge b i (by omega)
    simp [hi, h8, hb, show 8 + (i - 8) = i by omega]

/-- Eight shift steps on a remainder whose low byte is 0 only shift it down. -/
theorem crcShifts_high (c : Word) : crcShifts 8 ((c >>> 8) <<< 8) = c >>> 8 := by
  rw [crcShifts_low 8 _ fun i hi => by simp [hi]]
  apply BitVec.eq_of_getLsbD_eq
  intro i hi
  by_cases h24 : 8 + i < 32
  · simp [h24]
  · simp [h24, BitVec.getLsbD_of_ge c (8 + i) (by omega)]

/-- `CRC.UPDATE` by table (R125): the shift steps are linear, so the low byte is looked up and the rest is shifted down. -/
theorem crcByte_eq_table (c : Word) (b : Byte) :
    crcByte c b = crcShifts 8 ((c.setWidth 8 ^^^ b).setWidth 32) ^^^ (c >>> 8) := by
  rw [crcByte, xor_byte_eq_low_xor_high, crcShifts_xor, crcShifts_high]

/-! ### The bytes a checksum depends on -/

/-- A checksum step is injective in the byte. -/
theorem crcByte_byte_inj {c : Word} {a b : Byte} (h : crcByte c a = crcByte c b) : a = b := by
  have hwide : a.setWidth 32 = b.setWidth 32 := (BitVec.xor_right_inj c).1 (crcShifts_inj 8 h)
  simpa using congrArg (BitVec.setWidth 8) hwide

/-- Equal checksum runs with one byte in doubt between a common front and a common end have that byte in common. -/
theorem crcBytes_middle_inj {c : Word} {p q : List Byte} {a b : Byte}
    (h : crcBytes c (p ++ a :: q) = crcBytes c (p ++ b :: q)) : a = b := by
  have hcut (x : Byte) : crcBytes c (p ++ x :: q) = crcBytes (crcByte (crcBytes c p) x) q := List.foldl_append
  rw [hcut, hcut] at h
  exact crcByte_byte_inj (crcBytes_inj q _ _ h)

/-! ### The obligations of the CRC engine -/

/-- Settles O6: the equations of the three operations, with the eight shift steps as iterates of one. -/
theorem crcInitUpdateFinalResults : Obligations.CrcInitUpdateFinalResults := by
  refine ⟨exec_crcInit, fun s b => ?_, exec_crcFinal⟩
  rw [exec_crcUpdate, crcByte, crcShifts_eq_iterate]
  rfl

/-- Settles O7: the sequence runs through `CRC.INIT`, the updates and `CRC.FINAL` to the result of `exec_crcChunk`. -/
theorem crcChunkIsInitUpdatesFinal : Obligations.CrcChunkIsInitUpdatesFinal := by
  refine fun s type payload => ⟨?_, exec_crcChunk type payload s⟩
  rw [exec_crcChunk, List.cons_append, execAll_cons (exec_crcInit s), execAll_crcUpdates, execAll_cons (exec_crcFinal _)]
  rfl

/-- Settles O8: the table holds eight shift steps of each byte, and its listed entries are evaluated. -/
theorem crcUpdateHasATableForm : Obligations.CrcUpdateHasATableForm := by
  refine ⟨fun n => crcShifts 8 (n.setWidth 32), fun s b => ?_, fun n => rfl, by decide⟩
  rw [exec_crcUpdate, crcByte_eq_table]

/-- Settles O9: the final complement and the run after the byte lose nothing, so equal checksums have equal bytes. -/
theorem crcDetectsAnyErrorInsideOneByte : Obligations.CrcDetectsAnyErrorInsideOneByte := by
  intro p q a b hab h
  exact hab (crcBytes_middle_inj ((BitVec.xor_left_inj _).1 h))

end Sys2Proof.Machine
end

section
/-! The chunk reader (R131 to R140): the signature, the framing of one chunk as one chain of tests on the bytes that are left,
what the four chunk operations answer, and `RD.CHUNK` on an input that holds a whole chunk. -/

namespace Sys2Proof.Machine

/-! ### The signature -/

/-- How much of the input is available does not depend on the reader's registers. -/
theorem inAvail_of_rd (s : State) (rd : Reader) (p : Nat) : { s with rd := rd }.inAvail p = s.inAvail p := rfl

/-- An input that starts with the signature has its eight bytes (R91). -/
theorem length_of_take_eq_signature {bs : List Byte} (h : bs.take 8 = signature) : 8 ≤ bs.length := by
  have hlen : min 8 bs.length = 8 := by rw [← List.length_take, h]; rfl
  omega

/-- `RD.SIG` with a port that works compares the first eight bytes, of which a short input has too few (R131). -/
theorem exec_rdSig_eq (s : State) (hp : s.ports.inFail = none) :
    exec .rdSig s = .next
      (if s.ports.inp.take 8 = signature then { s with rd := { s.rd with pos := 8, chunkoff := 0, type := 0 } }
      else raise .badSignature { s with rd := { s.rd with chunkoff := 0, type := 0 } }) := by
  have hread : s.inRead 0 8 = some (s.ports.inp.take 8) := inRead_ok s hp 0 8
  simp only [exec, execRdSig, inAvail_of_rd, inRead_of_rd, hread]
  by_cases hshort : s.inAvail 0 < 8
  · have hne : s.ports.inp.take 8 ≠ signature := fun h => (length_of_take_eq_signature h).not_gt hshort
    rw [if_pos hshort, if_neg hne]
  · rw [if_neg hshort, apply_ite Host.Outcome.next]

/-- Settles O10: the answer of `exec_rdSig_eq`, its error report written out. -/
theorem readSignatureAcceptsExactlyTheSignature : Obligations.ReadSignatureAcceptsExactlyTheSignature :=
  exec_rdSig_eq

/-! ### Framing one chunk -/

/-- The bytes available from the `k`-th after `POS`, counted from `POS`. -/
theorem avail_lt_iff (s : State) {k n : Nat} (h : 0 < n ∨ k ≤ (s.ports.inp.drop s.rd.pos).length) :
    s.ports.inp.length - (s.rd.pos + k) < n ↔ (s.ports.inp.drop s.rd.pos).length < k + n := by
  rw [List.length_drop] at *
  omega

/-- The type part of the framing, on the bytes left at `POS`. -/
theorem frameType_framing (s : State) (hp : s.ports.inFail = none) (L : Word) :
    let left := s.ports.inp.drop s.rd.pos
    frameType s.rd.pos (framing L 0 s) =
      if left.length < 8 then .raised (raise .truncType (framing L 0 s))
      else framePayload s.rd.pos (framing L (be32Of ((left.drop 4).take 4)) s) := by
  intro left
  rw [List.drop_drop, frameType_eq _ (framing L 0 s) hp]
  exact ite_congr (propext (avail_lt_iff s (k := 4) (.inl (by decide)))) (fun _ => rfl) fun _ => rfl

/-- The payload part of the framing, on the bytes left at `POS`. -/
theorem framePayload_framing (s : State) (hp : s.ports.inFail = none) (L T : Word) :
    let left := s.ports.inp.drop s.rd.pos
    8 ≤ left.length →
    framePayload s.rd.pos (framing L T s) =
      if left.length < 8 + L.toNat then .raised (raise .truncPayload (framing L T s))
      else frameCrc s.rd.pos ((left.drop 8).take L.toNat) (framing L T s) := by
  intro left h8
  rw [List.drop_drop, framePayload_eq _ (framing L T s) hp]
  exact ite_congr (propext (avail_lt_iff s (k := 8) (.inr h8))) (fun _ => rfl) fun _ => rfl

/-- The framing of the chunk at `POS` by a port that works, as one chain of tests on the bytes left there (R132, R133,
R142). -/
theorem frameChunk_chain (s : State) (hp : s.ports.inFail = none) :
    let left := s.ports.inp.drop s.rd.pos
    let L := be32Of (left.take 4)
    let T := be32Of ((left.drop 4).take 4)
    let payload := (left.drop 8).take L.toNat
    let C := be32Of ((left.drop (8 + L.toNat)).take 4)
    frameChunk s =
      if left.length < 4 then .raised (raise .truncLength (framing 0 0 s))
      else if L.toNat > s.build.maxLen.toNat then .raised (raise .lengthOverMax (framing L 0 s))
      else if left.length < 8 then .raised (raise .truncType (framing L 0 s))
      else if left.length < 8 + L.toNat then .raised (raise .truncPayload (framing L T s))
      else if left.length < 12 + L.toNat then .raised (raise .truncCrc (framing L T s))
      else if crc32 (enc32 T ++ payload) ≠ C then .raised (raise .crcMismatch (framed T payload C s))
      else .ok (delivered T payload s) payload := by
  intro left L T payload C
  have htype := frameType_framing s hp L
  have hpayload (h8 : ¬ left.length < 8) := framePayload_framing s hp L T (not_lt.1 h8)
  have hcrc (hl : ¬ left.length < 8 + L.toNat) : frameCrc s.rd.pos payload (framing L T s) =
      if left.length < 12 + L.toNat then .raised (raise .truncCrc (framing L T s))
      else if crc32 (enc32 T ++ payload) ≠ C then .raised (raise .crcMismatch (framed T payload C s))
      else .ok (delivered T payload s) payload := by
    have hlen : payload.length = L.toNat := by
      simp only [payload, List.length_take, List.length_drop]
      omega
    have havail : s.ports.inp.length - (s.rd.pos + (8 + L.toNat)) < 4 ↔ left.length < 12 + L.toNat := by
      rw [avail_lt_iff s (.inl (by decide)), Nat.add_right_comm]
    rw [frameCrc_framing s hp L T payload hlen, Nat.add_assoc, ← List.drop_drop]
    exact ite_congr (propext havail) (fun _ => rfl) fun _ => rfl
  rw [frameChunk_eq s hp]
  refine ite_congr (propext (avail_lt_iff s (k := 0) (.inl (by decide)))) (fun _ => rfl) fun _ =>
    ite_congr rfl (fun _ => rfl) fun _ => htype.trans ?_
  exact ite_congr rfl (fun _ => rfl) fun h8 => (hpayload h8).trans (ite_congr rfl (fun _ => rfl) hcrc)

/-- What `RD.CHUNK` makes of the framing's answer: an error ends it, and a payload delivered goes to the dispatch (R132). -/
def Framed.dispatch : Framed → Result
  | .raised s => .next s
  | .ok s payload => dispatchChunk payload s

theorem execRdChunk_eq_dispatch (s : State) : execRdChunk s = (frameChunk s).dispatch := by
  rw [execRdChunk]
  cases frameChunk s <;> rfl

/-- Settles O11: the dispatch of each end of the chain of tests. -/
theorem readChunkFramesInOrder : Obligations.ReadChunkFramesInOrder := by
  intro s hp left n L T payload C computed
  refine (execRdChunk_eq_dispatch s).trans ((congrArg Framed.dispatch (frameChunk_chain s hp)).trans ?_)
  simp only [apply_ite Framed.dispatch]
  rfl

/-! ### The operations a chunk selects -/

/-- How `CHUNK.IHDR` ends with the header registers loaded, by the defect its tests have found (R137). -/
def headerEnd (s : State) (h : Header) : Option Cause → State
  | none => { s with hdr := h, rd := { s.rd with seenIhdr := true } }
  | some c => raise c { s with hdr := h }

/-- `CHUNK.IHDR` on 13 bytes. -/
theorem execChunkIhdr_header {s : State} {payload : List Byte} {h : Header} (hl : s.rd.len = 13)
    (hh : headerOf payload = some h) :
    execChunkIhdr payload s = .next (headerEnd s h (headerDefect s.build h)) := by
  simp only [execChunkIhdr, if_neg (not_not.2 hl), hh]
  cases headerDefect s.build h <;> rfl

/-- The header of an image of the one format the block accepts (R137, R153). -/
def acceptedHeader (w h : Word) : Header :=
  { w := w, h := h, bitDepth := 8, colorType := 2, compression := 0, filterMethod := 0, interlace := 0 }

/-- The payload the writer emits holds such a header. -/
theorem headerOf_ihdrPayload_accepted (w h : Word) : headerOf (ihdrPayload w h) = some (acceptedHeader w h) :=
  headerOf_ihdrPayload w h 8 2 0 0 0

/-- With a size within bounds it has no defect (R137). -/
theorem headerDefect_accepted {b : Build} {w h : Word} (hs : sizeOk b w h) :
    headerDefect b (acceptedHeader w h) = none := by
  obtain ⟨hw1, hw, hh1, hh⟩ := hs
  have hw0 : w ≠ 0 := by rintro rfl; exact absurd hw1 (by decide)
  have hh0 : h ≠ 0 := by rintro rfl; exact absurd hh1 (by decide)
  rw [headerDefect, acceptedHeader, if_neg (not_or.2 ⟨hw0, hh0⟩)]
  simp [hw, hh]

/-- `CHUNK.IHDR` on such a header. -/
theorem execChunkIhdr_accepted {s : State} {w h : Word} (hl : s.rd.len = 13) (hs : sizeOk s.build w h) :
    execChunkIhdr (ihdrPayload w h) s = .next { s with
      hdr := acceptedHeader w h, rd := { s.rd with seenIhdr := true } } := by
  rw [execChunkIhdr_header hl (headerOf_ihdrPayload_accepted w h), headerDefect_accepted hs, headerEnd]

/-- Settles O15: the defects of the header in the order of `headerDefect`, each with its report. -/
theorem headerChunkTestsInOrder : Obligations.HeaderChunkTestsInOrder := by
  refine ⟨fun s payload hl => if_pos hl, fun s w h bd ct cm fm il hl => ?_⟩
  refine (execChunkIhdr_header hl (headerOf_ihdrPayload w h bd ct cm fm il)).trans (congrArg _ ?_)
  simp only [headerDefect, apply_ite (headerEnd s _)]
  rfl

/-! ### `RD.CHUNK` on a whole chunk -/

/-- What the operation that a type decodes to does (R93, R134). -/
theorem exec_decodeChunk (type : Word) (payload : List Byte) (s : State) :
    exec (decodeChunk type payload) s =
      if type = typeIHDR then execChunkIhdr payload s
      else if type = typeIDAT then execChunkIdat payload s
      else if type = typeIEND then execChunkIend payload s
      else execChunkOther type payload s := by
  simp only [decodeChunk, apply_ite (exec · s)]
  rfl

/-- The dispatch, by the decoder: the two tests on the place of IHDR, then the operation that the type decodes to (R134,
R135). -/
theorem dispatchChunk_eq (payload : List Byte) (s : State) :
    dispatchChunk payload s =
      if s.rd.seenIhdr = false ∧ s.rd.type ≠ typeIHDR then .next (raise .firstNotIhdr s)
      else if s.rd.seenIhdr = true ∧ s.rd.type = typeIHDR then .next (raise .dupIhdr s)
      else exec (decodeChunk s.rd.type payload) s := by
  rw [exec_decodeChunk, dispatchChunk]
  by_cases hihdr : s.rd.type = typeIHDR
  · cases s.rd.seenIhdr <;> simp [hihdr]
  · cases s.rd.seenIhdr <;> simp [hihdr]

/-- A length the block accepts fits the length field. -/
theorem toNat_ofNat_of_le_maxLen {b : Build} {n : Nat} (h : n ≤ b.maxLen.toNat) : (BitVec.ofNat 32 n).toNat = n :=
  Nat.mod_eq_of_lt (h.trans_lt b.maxLen.isLt)

section
variable {s : State} {type : Word} {payload rest : List Byte}

/-- `RD.CHUNK` where the four fields of a chunk are there: the comparison of the checksums, then the dispatch (R133). -/
theorem exec_rdChunk_fields {crc : Word} (hp : s.ports.inFail = none) (hl : payload.length ≤ s.build.maxLen.toNat)
    (hin : s.ports.inp.drop s.rd.pos =
      enc32 (BitVec.ofNat 32 payload.length) ++ enc32 type ++ payload ++ enc32 crc ++ rest) :
    exec .rdChunk s =
      if crc32 (enc32 type ++ payload) ≠ crc then
        .next (failState 3 1 type s.rd.pos crc (crc32 (enc32 type ++ payload)) (framed type payload crc s))
      else dispatchChunk payload (delivered type payload s) := by
  have hn := toNat_ofNat_of_le_maxLen hl
  obtain ⟨hlen, hL, hT, hpayload, hC, -⟩ := chunk_parts (BitVec.ofNat 32 payload.length) type crc payload rest hn
  have hchain := readChunkFramesInOrder s hp
  simp only [hin, hlen, hL, hT, hpayload, hC] at hchain
  rw [hn] at hchain
  rw [hchain, if_neg (by omega), if_neg hl.not_gt, if_neg (by omega), if_neg (by omega), if_neg (by omega)]

/-- `RD.CHUNK` where the input holds a chunk whose checksum is right. -/
theorem exec_rdChunk_chunkBytes (hp : s.ports.inFail = none) (hl : payload.length ≤ s.build.maxLen.toNat)
    (hin : s.ports.inp.drop s.rd.pos = chunkBytes type payload ++ rest) :
    exec .rdChunk s = dispatchChunk payload (delivered type payload s) := by
  rw [exec_rdChunk_fields hp hl hin, if_neg (not_not.2 rfl)]

/-- An IHDR chunk at the head of the stream, and a chunk of another type after it, is the operation its type decodes to. -/
theorem exec_rdChunk_decoded (hp : s.ports.inFail = none) (hl : payload.length ≤ s.build.maxLen.toNat)
    (hin : s.ports.inp.drop s.rd.pos = chunkBytes type payload ++ rest)
    (hplace : s.rd.seenIhdr = false ↔ type = typeIHDR) :
    exec .rdChunk s = exec (decodeChunk type payload) (delivered type payload s) := by
  have hfirst : ¬ (s.rd.seenIhdr = false ∧ type ≠ typeIHDR) := fun ⟨hseen, htype⟩ => htype (hplace.1 hseen)
  have hdup : ¬ (s.rd.seenIhdr = true ∧ type = typeIHDR) := fun ⟨hseen, htype⟩ => by simp [hplace.2 htype] at hseen
  rw [exec_rdChunk_chunkBytes hp hl hin, dispatchChunk_eq]
  exact (if_neg hfirst).trans (if_neg hdup)

end

/-- Settles O12: what the decoder accepts are the bytes of a chunk, and the dispatch runs the operation it decodes to. -/
theorem readChunkRunsTheDecodedChunk : Obligations.ReadChunkRunsTheDecodedChunk := by
  intro s type payload rest hp hsplit hl
  obtain ⟨hin, -⟩ := splitChunk_ok _ _ _ _ hsplit
  refine ⟨by simp only [decode, hsplit], ?_⟩
  rw [exec_rdChunk_chunkBytes hp hl hin, dispatchChunk_eq]
  rfl

/-- Settles O13: each chunk stands where its type may, so `RD.CHUNK` is the operation of its type on the chunk delivered; the
header of the last one has no defect. -/
theorem readChunkCompletesOnEachType : Obligations.ReadChunkCompletesOnEachType := by
  intro s rest hp
  refine ⟨fun type payload hseen hl hihdr hidat hiend hin => ?other, fun payload hseen hl hin => ?idat,
    fun hseen hin => ?iend, fun w h hseen hl hs hin => ?ihdr⟩
  case other =>
    rw [exec_rdChunk_decoded hp hl hin (by simp [hseen, hihdr]), decodeChunk_other ⟨hihdr, hidat, hiend⟩]
    rfl
  case idat => exact exec_rdChunk_decoded hp hl hin (by simp [hseen, typeIDAT, typeIHDR])
  case iend => exact exec_rdChunk_decoded hp (Nat.zero_le _) hin (by simp [hseen, typeIEND, typeIHDR])
  case ihdr =>
    rw [exec_rdChunk_decoded hp (payload := ihdrPayload w h) hl hin (by simp [hseen])]
    exact execChunkIhdr_accepted rfl hs

/-- The checksum tells a payload from the same with one byte changed (R127). -/
theorem crc32_ne_of_byte_changed (front payload : List Byte) {k : Nat} (hk : k < payload.length) {x : Byte} (hx : x ≠ 0) :
    crc32 (front ++ payload.set k (payload.getD k 0 ^^^ x)) ≠ crc32 (front ++ payload) := by
  have hget : payload.getD k 0 = payload[k] := by simp [hk]
  have hne : payload[k] ^^^ x ≠ payload[k] := by simpa using hx
  have hcrc := crcDetectsAnyErrorInsideOneByte (front ++ payload.take k) (payload.drop (k + 1)) _ _ hne
  rw [List.append_assoc, List.append_assoc, List.getElem_cons_drop, List.take_append_drop] at hcrc
  rwa [hget, List.set_eq_take_append_cons_drop, if_pos hk]

/-- Settles O14: the four fields are there, and the CRC engine detects every change inside one byte. -/
theorem corruptPayloadRaisesChecksumError : Obligations.CorruptPayloadRaisesChecksumError := by
  intro s type payload rest k x hp hl hk hx hin
  have hlen : (payload.set k (payload.getD k 0 ^^^ x)).length = payload.length := List.length_set
  rw [exec_rdChunk_fields hp (hlen.trans_le hl) (hlen ▸ hin), if_pos (crc32_ne_of_byte_changed _ payload hk hx)]

/-! ### The end of the chunk loop -/

/-- `CHUNK.IHDR` leaves `SEEN_IEND`. -/
theorem execChunkIhdr_seenIend {payload : List Byte} {s t : State} (h : execChunkIhdr payload s = .next t) :
    t.rd.seenIend = s.rd.seenIend := by
  unfold execChunkIhdr at h
  split at h
  · cases h; rfl
  split at h
  · cases h
  dsimp only at h
  split at h <;> cases h <;> rfl

/-- Of the ends of the dispatch the one that sets `SEEN_IEND`, an empty IEND, does not move the sequencer. -/
theorem dispatchChunk_seenIend {payload : List Byte} {s t : State} (h : dispatchChunk payload s = .next t) :
    t.rd.seenIend = s.rd.seenIend ∨ t.st = s.st := by
  rw [dispatchChunk_eq, exec_decodeChunk] at h
  split_ifs at h
  · cases h; exact .inl rfl
  · cases h; exact .inl rfl
  · exact .inl (execChunkIhdr_seenIend h)
  · cases h; exact .inl rfl
  · unfold execChunkIend at h
    split at h <;> cases h
    · exact .inl rfl
    · exact .inr rfl
  · cases h; exact .inl rfl

/-- The same of `RD.CHUNK`, since framing changes neither. -/
theorem execRdChunk_seenIend {s t : State} (h : execRdChunk s = .next t) :
    t.rd.seenIend = s.rd.seenIend ∨ t.st = s.st := by
  rw [execRdChunk_eq_dispatch] at h
  rcases frameChunk_cases s with ⟨c, u, hf, hu⟩ | ⟨u, payload, hf, hu, -⟩
  · rw [hf] at h
    cases h
    exact .inl hu.seenIend
  · rw [hf] at h
    have hst : u.st = s.st := by rw [hu.eq]
    rw [← hu.seenIend, ← hst]
    exact dispatchChunk_seenIend h

/-- A move of the block out of the chunk loop goes to `Inflate` (R139, R218). -/
theorem blockMove_iend {s t : State} (hs : s.st = .collectDataChunks) (h : blockMove s = .next t)
    (hend : t.rd.seenIend = true) : t.st = .inflate := by
  cases hseen : s.rd.seenIend with
  | true =>
    simp only [blockMove, fetch, innerMove, hs, hseen, if_true] at h
    cases h
    rfl
  | false =>
    rcases blockMove_cases h with ⟨i, u, hi, hu, rfl⟩ | ⟨hn, -⟩
    · obtain rfl : .rdChunk = i := by simpa [fetch, hs, hseen] using hi
      rw [advance_eq u] at hend
      replace hend : u.rd.seenIend = true := hend
      have hst : u.st = .collectDataChunks := by
        rcases execRdChunk_seenIend hu with hkept | hst
        · simp [hkept, hseen] at hend
        · exact hst.trans hs
      simp [advance, hst, hend]
    · simp [fetch, hs, hseen] at hn

/-- Settles O16: the operations' equations, and what a step out of the chunk loop fetches next. -/
theorem dataEndAndOtherChunkResults : Obligations.DataEndAndOtherChunkResults := by
  refine ⟨fun s payload => rfl, fun s payload => ?iend, fun s type payload => rfl, fun s t hhost hs h hend => ?step⟩
  case iend =>
    simp only [exec, execChunkIend, apply_ite Host.Outcome.next]
    rfl
  case step =>
    have ht : t.st = .inflate := blockMove_iend hs (step_of_host_nil hhost ▸ h) hend
    exact ⟨ht, by simp only [fetch, ht]⟩

end Sys2Proof.Machine
end

section
/-! The chunk writer (R151 to R157): each operation as an equation for a port that works, one turn of the loop of `EMIT.IDAT`
and the loop as a number of turns, and what a port that fails inside a write leaves. -/

namespace Sys2Proof.Machine

/-! ### The operations on a port that works -/

/-- `WR.CHUNK` appends the chunk (R152). -/
theorem exec_wrChunk_ok {s : State} {payload : List Byte} (hp : s.ports.outFail = none) (hl : payload.length < 2 ^ 32)
    (type : Word) : exec (.wrChunk type payload) s = .next (appended type payload s) := by
  show execWrChunk type payload s = _
  rw [execWrChunk, if_pos hl, writeChunk_ok s hp]
  rfl

/-- What a chunk written leaves in `OUT` is the chunk of R92. -/
theorem appended_out (type : Word) (payload : List Byte) (s : State) :
    (appended type payload s).ports.out = s.ports.out ++ chunkBytes type payload := rfl

/-- Settles O18: the signature's eight bytes are emitted, and `WR.CHUNK` is `exec_wrChunk_ok`. -/
theorem writerAppendsSignatureAndChunk : Obligations.WriterAppendsSignatureAndChunk := by
  refine ⟨fun s hp => ?_, fun s type payload hp hl => exec_wrChunk_ok hp hl type⟩
  show execWrSig s = _
  rw [execWrSig, emitOut_ok signature s (by rw [hp, portFails_none])]
  rfl

/-- Settles O19: behind what `OUT` held stands the chunk, which `readChunk` reads back. -/
theorem writtenChunkReadsBack : Obligations.WrittenChunkReadsBack := by
  intro s t type payload rest hp hl ht
  rw [exec_wrChunk_ok hp (hl.trans_lt s.build.maxLen.isLt)] at ht
  cases ht
  have hdrop : ((appended type payload s).ports.out ++ rest).drop s.ports.out.length = chunkBytes type payload ++ rest := by
    rw [appended_out, List.append_assoc, List.drop_left]
  rw [readChunk_chunkBytes _ type payload _ rest _ hl hdrop, appended_out, List.length_append, chunkBytes_length,
    Nat.add_assoc]

/-- Settles O20: each of the two operations writes one chunk, and the end chunk's bytes are evaluated. -/
theorem emitHeaderAndEndChunks : Obligations.EmitHeaderAndEndChunks := by
  refine ⟨fun s hp => ?header, fun s hp => ⟨?trailer, congrArg (s.ports.out ++ ·) chunkBytes_iend⟩⟩
  case header =>
    exact congrArg Flow.result (writeChunk_ok { s with hdr := acceptedHeader s.img.width s.img.height } hp typeIHDR
      (ihdrPayload s.img.width s.img.height))
  case trailer =>
    exact congrArg Flow.result (writeChunk_ok s hp typeIEND [])

/-! ### The loop of `EMIT.IDAT` -/

/-- The bytes of `ZBUF` that the loop of R154 has not written. -/
def State.unwritten (s : State) : List Byte := s.zbuf.drop s.wr.zpos

/-- `s` after one turn of the loop of R154: the next `IDATMAX` bytes of `ZBUF`, or what is left, written as one chunk. -/
def dataTurn (s : State) : State :=
  let payload := s.unwritten.take s.cfg.idatmax.toNat
  { appended typeIDAT payload s with
    wr := { opos := s.wr.opos + (12 + payload.length), zpos := s.wr.zpos + payload.length } }

/-- `s` after `k` turns that have written all of `ZBUF`, as R154 counts them: every chunk but the last has `IDATMAX` bytes,
and the registers hold what the last one left. -/
def dataWritten (k : Nat) (s : State) : State :=
  let m := s.cfg.idatmax.toNat
  { s with
    crcacc := crcBytes crcInitial (enc32 typeIDAT ++ s.unwritten.drop ((k - 1) * m))
    rd := { s.rd with len := BitVec.ofNat 32 (s.unwritten.length - (k - 1) * m), type := typeIDAT }
    ports := { s.ports with
      out := s.ports.out ++ (List.range k).flatMap fun j => chunkBytes typeIDAT ((s.unwritten.drop (j * m)).take m) }
    wr := { opos := s.wr.opos + (12 * k + s.unwritten.length), zpos := s.zbuf.length } }

theorem unwritten_length (s : State) : s.unwritten.length = s.zbuf.length - s.wr.zpos := List.length_drop

theorem zpos_lt_of_unwritten {s : State} {n : Nat} (h : n < s.unwritten.length) : s.wr.zpos < s.zbuf.length := by
  rw [unwritten_length] at h
  omega

/-- With nothing left the loop stops. -/
theorem emitIdatLoop_done {s : State} (h : s.zbuf.length ≤ s.wr.zpos) (fuel : Nat) : emitIdatLoop fuel s = .ok s := by
  cases fuel with
  | zero => rfl
  | succ fuel => rw [emitIdatLoop, if_neg h.not_gt]

/-- With bytes left and a port that works the loop makes a turn. -/
theorem emitIdatLoop_turn {s : State} (hp : s.ports.outFail = none) (h : s.wr.zpos < s.zbuf.length) (fuel : Nat) :
    emitIdatLoop (fuel + 1) s = emitIdatLoop fuel (dataTurn s) := by
  have hn : min s.cfg.idatmax.toNat (s.zbuf.length - s.wr.zpos) = (s.unwritten.take s.cfg.idatmax.toNat).length := by
    rw [List.length_take, unwritten_length]
  have hcut : s.unwritten.take (s.unwritten.take s.cfg.idatmax.toNat).length = s.unwritten.take s.cfg.idatmax.toNat := by
    rw [List.length_take, ← List.take_eq_take_min]
  rw [emitIdatLoop, if_pos h, hn]
  dsimp only
  rw [← State.unwritten, hcut, writeChunk_ok s hp]
  rfl

/-- A turn that `IDATMAX` does not bound writes all that is left. -/
theorem dataTurn_last {s : State} (hz : s.wr.zpos ≤ s.zbuf.length) (h : s.unwritten.length ≤ s.cfg.idatmax.toNat) :
    dataTurn s = dataWritten 1 s := by
  have hcut : s.unwritten.take s.cfg.idatmax.toNat = s.unwritten := List.take_of_length_le h
  have hend : s.wr.zpos + s.unwritten.length = s.zbuf.length := by rw [unwritten_length]; omega
  simp only [dataTurn, dataWritten, hcut, hend, Nat.sub_self, Nat.zero_mul, Nat.sub_zero, Nat.mul_one, List.drop_zero,
    List.range_one, List.flatMap_singleton, appended, chunkBytes]

/-- A whole turn leaves `IDATMAX` bytes fewer. -/
theorem dataTurn_unwritten {s : State} (h : s.cfg.idatmax.toNat ≤ s.unwritten.length) :
    (dataTurn s).unwritten = s.unwritten.drop s.cfg.idatmax.toNat := by
  show s.zbuf.drop (s.wr.zpos + (s.unwritten.take s.cfg.idatmax.toNat).length) = _
  rw [List.length_take_of_le h, ← List.drop_drop]
  rfl

/-- The pieces of `m` bytes of a sequence, put through `f`: the first, then those of the rest. -/
theorem flatMap_pieces_succ (f : List Byte → List Byte) (bs : List Byte) (m k : Nat) :
    (List.range (k + 1)).flatMap (fun j => f ((bs.drop (j * m)).take m)) =
      f (bs.take m) ++ (List.range k).flatMap fun j => f (((bs.drop m).drop (j * m)).take m) := by
  rw [List.range_succ_eq_map, List.flatMap_cons, List.flatMap_map]
  simp [List.drop_drop, Nat.succ_mul, Nat.add_comm]

/-- A whole turn, then the turns that write the rest. -/
theorem dataWritten_dataTurn {s : State} (h : s.cfg.idatmax.toNat ≤ s.unwritten.length) (k : Nat) :
    dataWritten (k + 1) (dataTurn s) = dataWritten (k + 2) s := by
  have hlast : s.cfg.idatmax.toNat + k * s.cfg.idatmax.toNat = (k + 1) * s.cfg.idatmax.toNat := by
    rw [Nat.succ_mul, Nat.add_comm]
  have hcfg : (dataTurn s).cfg = s.cfg := rfl
  have hout : (dataTurn s).ports.out = s.ports.out ++ chunkBytes typeIDAT (s.unwritten.take s.cfg.idatmax.toNat) := rfl
  have hopos : (dataTurn s).wr.opos = s.wr.opos + (12 + s.cfg.idatmax.toNat) :=
    congrArg (fun n => s.wr.opos + (12 + n)) (List.length_take_of_le h)
  have hcount : s.wr.opos + (12 + s.cfg.idatmax.toNat) + (12 * (k + 1) + (s.unwritten.length - s.cfg.idatmax.toNat)) =
      s.wr.opos + (12 * (k + 2) + s.unwritten.length) := by omega
  simp only [dataWritten, hcfg, hout, hopos, dataTurn_unwritten h, Nat.add_sub_cancel, List.drop_drop, List.length_drop,
    Nat.sub_sub, hlast, flatMap_pieces_succ _ _ _ (k + 1), hcount, List.append_assoc]
  rfl

/-- The loop on more than `k` and at most `k + 1` times `IDATMAX` bytes makes `k + 1` turns. -/
theorem emitIdatLoop_eq_dataWritten {k fuel : Nat} {s : State} (hp : s.ports.outFail = none)
    (hlow : k * s.cfg.idatmax.toNat < s.unwritten.length) (hhigh : s.unwritten.length ≤ (k + 1) * s.cfg.idatmax.toNat)
    (hfuel : k < fuel) : emitIdatLoop fuel s = .ok (dataWritten (k + 1) s) := by
  induction k generalizing fuel s with
  | zero =>
    obtain ⟨fuel, rfl⟩ := Nat.exists_eq_succ_of_ne_zero (Nat.ne_zero_of_lt hfuel)
    have hz := zpos_lt_of_unwritten hlow
    rw [emitIdatLoop_turn hp hz, dataTurn_last hz.le (by simpa using hhigh)]
    exact emitIdatLoop_done le_rfl fuel
  | succ k ih =>
    obtain ⟨fuel, rfl⟩ := Nat.exists_eq_succ_of_ne_zero (Nat.ne_zero_of_lt hfuel)
    have hz := zpos_lt_of_unwritten hlow
    rw [Nat.succ_mul] at hlow hhigh
    have hwhole : s.cfg.idatmax.toNat ≤ s.unwritten.length := by omega
    have hleft : (dataTurn s).unwritten.length = s.unwritten.length - s.cfg.idatmax.toNat := by
      rw [dataTurn_unwritten hwhole, List.length_drop]
    have hcfg : (dataTurn s).cfg = s.cfg := rfl
    rw [emitIdatLoop_turn hp hz, ← dataWritten_dataTurn hwhole]
    refine ih hp ?_ ?_ (by omega)
    · rw [hleft, hcfg]; omega
    · rw [hleft, hcfg]; omega

theorem toNat_pos_of_ne_zero {v : Word} (h : v ≠ 0) : 0 < v.toNat :=
  Nat.pos_of_ne_zero fun h0 => h (BitVec.eq_of_toNat_eq h0)

/-- `EMIT.IDAT` on a stream of more than `k` and at most `k + 1` times `IDATMAX` bytes (R154). -/
theorem exec_emitIdat_ok {s : State} {k : Nat} (hp : s.ports.outFail = none) (hm : s.cfg.idatmax ≠ 0)
    (hlow : k * s.cfg.idatmax.toNat < s.zbuf.length) (hhigh : s.zbuf.length ≤ (k + 1) * s.cfg.idatmax.toNat) :
    exec .emitIdat s = .next (dataWritten (k + 1) { s with wr := { s.wr with zpos := 0 } }) := by
  have hz : s.zbuf ≠ [] := List.ne_nil_of_length_pos (by omega)
  have hpos : 0 < s.cfg.idatmax.toNat := toNat_pos_of_ne_zero hm
  show execEmitIdat s = _
  simp only [execEmitIdat, if_neg hz, if_neg hm]
  rw [emitIdatLoop_eq_dataWritten (s := { s with wr := { s.wr with zpos := 0 } }) hp hlow hhigh]
  · rfl
  · exact (Nat.le_mul_of_pos_right k hpos).trans_lt hlow

/-- A positive number lies between two successive multiples, the upper one its rounded quotient. -/
theorem exists_ceilDiv {n m : Nat} (hn : 0 < n) (hm : 0 < m) :
    ∃ k, (n + m - 1) / m = k + 1 ∧ k * m < n ∧ n ≤ (k + 1) * m := by
  obtain ⟨k, hk⟩ := Nat.exists_eq_succ_of_ne_zero (Nat.div_pos (show m ≤ n + m - 1 by omega) hm).ne'
  have hlow := Nat.div_mul_le_self (n + m - 1) m
  have hhigh := Nat.lt_mul_div_succ (n + m - 1) hm
  rw [hk, Nat.succ_eq_add_one] at hlow hhigh
  rw [Nat.succ_mul] at hlow
  rw [Nat.mul_comm, Nat.succ_mul] at hhigh
  exact ⟨k, hk, by omega, by omega⟩

/-- Settles O21: an empty stream is one empty chunk, and else the loop makes as many turns as the rounded quotient says. -/
theorem emitDataCutsTheStream : Obligations.EmitDataCutsTheStream := by
  intro s hp hm m k
  by_cases hz : s.zbuf = []
  · rw [if_pos hz]
    show execEmitIdat s = _
    rw [execEmitIdat]
    simp only [if_pos hz]
    exact congrArg Flow.result (writeChunk_ok { s with wr := { s.wr with zpos := 0 } } hp typeIDAT [])
  · obtain ⟨j, hk, hlow, hhigh⟩ := exists_ceilDiv (List.length_pos_of_ne_nil hz) (toNat_pos_of_ne_zero hm)
    rw [if_neg hz, exec_emitIdat_ok hp hm hlow hhigh, ← hk]
    rfl

/-! ### A port that fails inside a write -/

/-- An access over the offset at which the port fails. -/
theorem portFails_inside {k p n : Nat} (hlow : p ≤ k) (hhigh : k < p + n) : portFails (some k) p n = true :=
  decide_eq_true ⟨hlow, hhigh⟩

/-- Settles O22: the emission fails, and the bytes arrived are as many as the free value says. -/
theorem failedWriteRaisesIoError : Obligations.FailedWriteRaisesIoError := by
  refine ⟨fun s k hk hlow hhigh => ⟨Config.freeWritten s.fresh, ?signature⟩,
    fun s k type payload hk hl hlow hhigh => ⟨Config.freeWritten s.fresh, ?chunk⟩⟩
  case signature =>
    have hfails : portFails s.ports.outFail s.wr.opos signature.length = true := hk ▸ portFails_inside hlow hhigh
    show execWrSig s = _
    rw [execWrSig, emitOut_raised signature s hfails]
    rfl
  case chunk =>
    have hfails : portFails s.ports.outFail s.wr.opos (chunkBytes type payload).length = true := by
      rw [hk, chunkBytes_length]
      exact portFails_inside hlow hhigh
    show execWrChunk type payload s = _
    rw [execWrChunk, if_pos hl]
    exact congrArg Flow.result (emitOut_raised (chunkBytes type payload) (crcOver type payload { s with
      rd := { s.rd with len := BitVec.ofNat 32 payload.length, type := type } }) hfails)

end Sys2Proof.Machine
end

section
/-! The compression port (R161, R162), and the Z stream DECODE hands to it: what R226's reader collects from a file whose chunks
are given is the concatenation of the IDAT payloads, so nothing else about the layout reaches the answer (R164). -/

namespace Sys2Proof.Machine

/-- Settles O23: each operation calls the adapter once, and both ends of the call are spelled out. -/
theorem adapterAnswerIsStoredOrRaised : Obligations.AdapterAnswerIsStoredOrRaised := by
  refine ⟨fun s => ?inflate, fun s => ?deflate⟩
  case inflate =>
    show execZportInflate s = _
    unfold execZportInflate
    cases Config.inflate s.zbuf <;> rfl
  case deflate =>
    show execZportDeflate s = _
    unfold execZportDeflate
    cases Config.deflate s.fbuf s.cfg.level <;> rfl

/-! ### The chunks after the header -/

section
variable {b : Build} {inp rest tail : List Byte} {p fuel : Nat}

/-- Behind a chunk stands the rest of the input (R92, R132). -/
theorem drop_behind_chunk {type : Word} {payload : List Byte} (hin : inp.drop p = chunkBytes type payload ++ rest) :
    inp.drop (p + 12 + payload.length) = rest := by
  rw [Nat.add_assoc, ← List.drop_drop, hin, List.drop_left' (chunkBytes_length type payload)]

/-- An empty IEND chunk ends the loop, whatever follows it (R139). -/
theorem collectChunks_iend (hin : inp.drop p = chunkBytes typeIEND [] ++ tail) (z : List Byte) :
    collectChunks b inp (fuel + 1) p z = .ok z := by
  have hread := readChunk_chunkBytes b typeIEND [] inp tail p (Nat.zero_le _) hin
  simp [collectChunks, hread, typeIEND, typeIDAT, typeIHDR]

/-- A chunk between header and end adds its payload if it is IDAT, and nothing else (R138, R140). -/
theorem collectChunks_middle {c : Word × List Byte} (hc : middleChunk b c)
    (hin : inp.drop p = chunkBytes c.1 c.2 ++ rest) (z : List Byte) :
    collectChunks b inp (fuel + 1) p z = collectChunks b inp fuel (p + 12 + c.2.length) (z ++ idatPayloads [c]) := by
  obtain ⟨hihdr, hiend, hlen⟩ := hc
  have hread := readChunk_chunkBytes b c.1 c.2 inp rest p hlen hin
  simp only [collectChunks, hread, if_neg hihdr, if_neg hiend]
  by_cases hidat : c.1 = typeIDAT
  · simp [idatPayloads, hidat]
  · simp [idatPayloads, hidat]

theorem chunksBytes_cons (c : Word × List Byte) (cs : List (Word × List Byte)) :
    chunksBytes (c :: cs) = chunkBytes c.1 c.2 ++ chunksBytes cs := rfl

theorem idatPayloads_cons (c : Word × List Byte) (cs : List (Word × List Byte)) :
    idatPayloads (c :: cs) = idatPayloads [c] ++ idatPayloads cs := by
  simp [idatPayloads]

/-- No stream has more chunks than bytes. -/
theorem length_le_chunksBytes (cs : List (Word × List Byte)) : cs.length ≤ (chunksBytes cs).length := by
  induction cs with
  | nil => exact Nat.zero_le _
  | cons c cs ih =>
    rw [chunksBytes_cons, List.length_append, chunkBytes_length, List.length_cons]
    omega

/-- The chunk loop collects the concatenation of the IDAT payloads (R138 to R140). -/
theorem collectChunks_chunksBytes {cs : List (Word × List Byte)} (hcs : ∀ c ∈ cs, middleChunk b c)
    (hin : inp.drop p = chunksBytes cs ++ (chunkBytes typeIEND [] ++ tail)) (hfuel : cs.length < fuel) (z : List Byte) :
    collectChunks b inp fuel p z = .ok (z ++ idatPayloads cs) := by
  induction cs generalizing fuel p z with
  | nil =>
    obtain ⟨fuel, rfl⟩ := Nat.exists_eq_succ_of_ne_zero (Nat.ne_zero_of_lt hfuel)
    rw [collectChunks_iend hin, idatPayloads, List.flatMap_nil, List.append_nil]
  | cons c cs ih =>
    obtain ⟨fuel, rfl⟩ := Nat.exists_eq_succ_of_ne_zero (Nat.ne_zero_of_lt hfuel)
    obtain ⟨hc, hcs⟩ := List.forall_mem_cons.1 hcs
    rw [chunksBytes_cons, List.append_assoc] at hin
    rw [collectChunks_middle hc hin, ih hcs (drop_behind_chunk hin) (Nat.lt_of_succ_lt_succ hfuel), List.append_assoc,
      ← idatPayloads_cons]

end

/-! ### A file given by its chunks -/

/-- A file with the header chunk of a `w` by `h` image, the chunks `cs`, the end chunk, and `tail` behind it (R156). -/
def fileOf (w h : Word) (cs : List (Word × List Byte)) (tail : List Byte) : List Byte :=
  signature ++ chunkBytes typeIHDR (ihdrPayload w h) ++ chunksBytes cs ++ chunkBytes typeIEND [] ++ tail

/-- What R226 answers on such a file, from the header and the Z stream alone: the header chunk may be longer than the build
accepts, its fields may have a defect, and else the image is decoded. -/
def layoutAnswer (inflate : Inflate) (b : Build) (w h : Word) (z : List Byte) :
    Except ErrReport (Word × Word × List Byte) :=
  if b.maxLen.toNat < 13 then .error (failure .lengthOverMax 0 8)
  else (parseIhdr b 8 (ihdrPayload w h)).bind fun size => decodeImage inflate size.1 size.2 z

/-- Thirteen bytes (R94). -/
theorem ihdrPayload_length (w h : Word) : (ihdrPayload w h).length = 13 := rfl

/-- Behind the signature stands the header chunk. -/
theorem fileOf_drop_signature (w h : Word) (cs : List (Word × List Byte)) (tail : List Byte) :
    (fileOf w h cs tail).drop 8 =
      chunkBytes typeIHDR (ihdrPayload w h) ++ (chunksBytes cs ++ (chunkBytes typeIEND [] ++ tail)) := by
  simp only [fileOf, List.append_assoc]
  exact List.drop_left' rfl

/-- A file has more bytes than its signature has bytes and it has chunks, so its length is fuel enough for the chunk loop. -/
theorem length_fileOf (w h : Word) (cs : List (Word × List Byte)) (tail : List Byte) :
    8 + cs.length < (fileOf w h cs tail).length := by
  have hcs := length_le_chunksBytes cs
  simp only [fileOf, List.length_append, chunkBytes_length, signature, List.length_cons]
  omega

/-- A chunk longer than the build accepts is refused by its length field, whatever else it holds (R132, R229). -/
theorem readChunk_lengthOverMax {b : Build} {type : Word} {payload inp rest : List Byte} {p : Nat}
    (hfits : payload.length < 2 ^ 32) (hlen : b.maxLen.toNat < payload.length)
    (hin : inp.drop p = chunkBytes type payload ++ rest) :
    readChunk b inp p = .error (failure .lengthOverMax 0 p) := by
  have hn : (BitVec.ofNat 32 payload.length).toNat = payload.length := Nat.mod_eq_of_lt hfits
  have hshort : ¬ (chunkBytes type payload ++ rest).length < 4 := by
    rw [List.length_append, chunkBytes_length]
    omega
  simp only [readChunk, hin, be32Of_chunk_length, hn]
  rw [if_neg hshort, if_pos hlen]

/-- The answer on a file whose chunks are given depends on the header and on the concatenation of the IDAT payloads only
(R164). -/
theorem decodeFun_fileOf (inflate : Inflate) {b : Build} (w h : Word) {cs : List (Word × List Byte)}
    (hcs : ∀ c ∈ cs, middleChunk b c) (tail : List Byte) :
    decodeFun inflate b (fileOf w h cs tail) = layoutAnswer inflate b w h (idatPayloads cs) := by
  have hlength := length_fileOf w h cs tail
  have hsig : (fileOf w h cs tail).take 8 = signature := by
    simp only [fileOf, List.append_assoc]
    exact List.take_left' rfl
  have hheader := fileOf_drop_signature w h cs tail
  have hstart : ¬ ((fileOf w h cs tail).length < 8 ∨ (fileOf w h cs tail).take 8 ≠ signature) := by
    rintro (hshort | hne)
    · omega
    · exact hne hsig
  rw [decodeFun, if_neg hstart, layoutAnswer]
  by_cases hmax : b.maxLen.toNat < 13
  case pos =>
    have hfits : (ihdrPayload w h).length < 2 ^ 32 := by
      rw [ihdrPayload_length]
      decide
    rw [if_pos hmax, readChunk_lengthOverMax hfits hmax hheader]
  case neg =>
    have hread := readChunk_chunkBytes b typeIHDR (ihdrPayload w h) _ _ 8 (not_lt.1 hmax) hheader
    have hcollect := collectChunks_chunksBytes hcs (drop_behind_chunk hheader)
      (show cs.length < (fileOf w h cs tail).length by omega) []
    rw [if_neg hmax, hread]
    simp only [hcollect, ne_eq, not_true_eq_false, if_false, List.nil_append]
    cases parseIhdr b 8 (ihdrPayload w h) <;> rfl

/-- The header chunk of an image whose size the block accepts gives its size (R137). -/
theorem parseIhdr_accepted {b : Build} {w h : Word} (hs : sizeOk b w h) (p : Nat) :
    parseIhdr b p (ihdrPayload w h) = .ok (w, h) := by
  simp only [parseIhdr, headerOf_ihdrPayload_accepted, headerDefect_accepted hs]
  rfl

/-- For an accepted header the answer is that of the Z stream. -/
theorem layoutAnswer_accepted (inflate : Inflate) {b : Build} {w h : Word} (hmax : 13 ≤ b.maxLen.toNat)
    (hs : sizeOk b w h) (z : List Byte) : layoutAnswer inflate b w h z = decodeImage inflate w h z := by
  rw [layoutAnswer, if_neg hmax.not_gt, parseIhdr_accepted hs]
  rfl

/-- Settles O60: both files' answers are that of the header and the one Z stream. -/
theorem chunkLayoutDoesNotMatter : Obligations.ChunkLayoutDoesNotMatter := by
  intro inflate b w h cs ds tail tail' hcs hds heq file
  have hfile := decodeFun_fileOf inflate w h hcs tail
  refine ⟨hfile.trans ?same, fun hmax hs => hfile.trans (layoutAnswer_accepted inflate hmax hs _)⟩
  case same => rw [heq]; exact (decodeFun_fileOf inflate w h hds tail').symm

end Sys2Proof.Machine
end

section
/-! The filter engine on decode (R171 to R184): the reconstructed byte as a number, the Paeth predictor on exact distances, the
predictors at the edges of an image, and the moves of `DefilterRows` between rows. -/

namespace Sys2Proof.Machine

/-! ### Line buffers -/

/-- A cell of a line buffer after a write to any cell: the cells that the write fills up to it read as before. -/
theorem lineRead_lineWrite (free : Nat → Byte) (l : List Byte) (k j : Nat) (v : Byte) :
    lineRead free (lineWrite free l k v) j = if j = k then v else lineRead free l j := by
  unfold lineWrite lineRead
  split
  case isTrue hin => by_cases hj : j = k <;> simp [hj, hin, Ne.symm]
  case isFalse hout => grind

/-- A cell of a line buffer whose front has been replaced. -/
theorem lineRead_append_drop (free : Nat → Byte) (front l : List Byte) (k : Nat) :
    lineRead free (front ++ l.drop front.length) k = if k < front.length then lineRead free front k else lineRead free l k := by
  unfold lineRead
  split
  case isTrue hin => rw [List.getElem?_append_left hin]
  case isFalse hout =>
    rw [List.getElem?_append_right (not_lt.1 hout), List.getElem?_drop, Nat.add_sub_cancel' (not_lt.1 hout)]

theorem lineCells_getElem? (free : Nat → Byte) (l : List Byte) {n k : Nat} (h : k < n) :
    (lineCells free l n)[k]? = some (lineRead free l k) := by
  simp [lineCells, h]

theorem curAt_setCur (s : State) (k j : Nat) (v : Byte) : (s.setCur k v).curAt j = if j = k then v else s.curAt j :=
  lineRead_lineWrite ..

/-- `PREV` after a row has been copied into it: the row over its width, and beyond it what was there (R180, R195). -/
theorem prevAt_copyRow (s : State) (n k : Nat) : (s.copyRow n).prevAt k = if k < n then s.curAt k else s.prevAt k := by
  have hcell : k < n → lineRead (Config.freePrev s.epoch) (s.curCells n) k = s.curAt k := fun hk => by
    rw [lineRead, State.curCells, lineCells_getElem? _ _ hk]
    rfl
  have hlen : (s.curCells n).length = n := lineCells_length ..
  have h := lineRead_append_drop (Config.freePrev s.epoch) (s.curCells n) s.prev k
  rw [hlen] at h
  exact h.trans (ite_congr rfl hcell fun _ => rfl)

/-! ### The reconstructed byte -/

theorem byte_add_ofNat (x : Byte) (n : Nat) : x + BitVec.ofNat 8 n = BitVec.ofNat 8 (x.toNat + n) :=
  BitVec.eq_of_toNat_eq (by simp)

theorem byte_add (x y : Byte) : x + y = BitVec.ofNat 8 ((x.toNat + y.toNat) % 256) := BitVec.eq_of_toNat_eq (by simp)

/-- A sum of two bytes, halved, is a byte (R176). -/
theorem average_toNat (a b : Byte) : (average a b).toNat = (a.toNat + b.toNat) / 2 := by
  rw [average, BitVec.toNat_ofNat]
  omega

/-- One reconstructed byte, its value under another name. -/
theorem reconByte_stores {t : FilterType} {s : State} {filt v : Byte} (hi : s.fl.i < s.rowBytes)
    (hf : s.fbuf[s.fl.fpos + 1 + s.fl.i]? = some filt)
    (hv : filt + predictor t (s.left s.fl.i) (s.up s.fl.i) (s.upLeft s.fl.i) = v) :
    reconByte t s = .next { s.setCur s.fl.i v with fl := { s.fl with i := s.fl.i + 1 } } :=
  hv ▸ reconByte_next t s filt hi hf

/-- Settles O24: every operation stores the filtered byte plus its predictor, which is 0, a neighbour, `average` or `paeth`. -/
theorem reconstructedByteOfEachType : Obligations.ReconstructedByteOfEachType := by
  intro s filt hi hf a b c stored
  have next (t : FilterType) {v : Byte} (hv : filt + predictor t a b c = v) : exec (reconOf t) s = .next (stored v) :=
    (exec_reconOf t s).trans (reconByte_stores hi hf hv)
  refine ⟨?none, ?sub, ?up, ?avg, ?paeth, fun v => ?here, fun v j hj => ?elsewhere⟩
  case none => exact next .none (BitVec.add_zero _)
  case sub => exact next .sub (byte_add ..)
  case up => exact next .up (byte_add ..)
  case avg => exact next .avg ((byte_add ..).trans (by rw [predictor, average_toNat]))
  case paeth => exact next .paeth (byte_add ..)
  case here => exact (curAt_setCur ..).trans (if_pos rfl)
  case elsewhere => exact (curAt_setCur ..).trans (if_neg hj)

/-! ### The Paeth predictor -/

/-- The predictor's comparisons, of the distances as absolute values of exact integers (R181). -/
theorem paeth_eq_abs (a b c : Byte) (p : Int) (hp : p = (a.toNat : Int) + b.toNat - c.toNat) :
    paeth a b c =
      if |p - a.toNat| ≤ |p - b.toNat| ∧ |p - a.toNat| ≤ |p - c.toNat| then a
      else if |p - b.toNat| ≤ |p - c.toNat| then b
      else c := by
  simp only [Int.abs_eq_natAbs, Nat.cast_le, hp]
  rfl

/-- Settles O25: the distances are rearranged over the integers, and the three cases are the branches of the predictor. -/
theorem paethPicksTheNearestNeighbour : Obligations.PaethPicksTheNearestNeighbour := by
  intro s a b c
  refine ⟨rfl, ?_⟩
  intro p pa pb pc
  rw [paeth_eq_abs a b c p rfl]
  refine ⟨congrArg abs ?left, congrArg abs ?up, congrArg abs ?upLeft, fun h => if_pos h,
    fun ⟨h, h'⟩ => (if_neg h).trans (if_pos h'), fun ⟨h, h'⟩ => (if_neg h).trans (if_neg h')⟩
  all_goals ring

/-! ### The predictors at the edges of an image -/

/-- With a zero row above, the nearest neighbour is `left`. -/
theorem paeth_zero_above (a : Byte) : paeth a 0 0 = a := by
  simp [paeth]

/-- At the left edge, the nearest neighbour is `up`; `left` ties with it only when both are 0. -/
theorem paeth_zero_left (b : Byte) : paeth 0 b 0 = b := by
  simp only [paeth]
  split
  case isTrue h =>
    have hb : b.toNat = 0 := by
      have hzero : (0 : Byte).toNat = 0 := rfl
      obtain ⟨htie, -⟩ := h
      omega
    exact (BitVec.eq_of_toNat_eq hb).symm
  case isFalse => simp

theorem average_zero_left (b : Byte) : average 0 b = BitVec.ofNat 8 (b.toNat / 2) := by
  simp [average]

/-- Two filter types whose predictors agree at byte `I` reconstruct it alike, stops included. -/
theorem reconByte_congr {t u : FilterType} {s : State}
    (h : s.fl.i < s.rowBytes → predictor t (s.left s.fl.i) (s.up s.fl.i) (s.upLeft s.fl.i) =
      predictor u (s.left s.fl.i) (s.up s.fl.i) (s.upLeft s.fl.i)) :
    reconByte t s = reconByte u s := by
  unfold reconByte
  split
  case isTrue hi => rw [h hi]
  case isFalse => rfl

/-- The three bytes of the first pixel of a row have no pixel to their left (R171). -/
theorem leftOf_edge (row : Nat → Byte) {i : Nat} (h : i < 3) : leftOf row i = 0 := if_neg h.not_ge

/-- In a row of zeros the byte to the left is zero as well (R171). -/
theorem leftOf_zero {row : Nat → Byte} {n i : Nat} (hrow : ∀ k, k < n → row k = 0) (hi : i < n) : leftOf row i = 0 := by
  unfold leftOf
  split
  · exact hrow _ (by omega)
  · rfl

/-- Settles O26: at an edge the neighbours that are 0 make the predictors equal. -/
theorem edgeIdentitiesOfTheFilters : Obligations.EdgeIdentitiesOfTheFilters := by
  intro s
  have hup (h : ∀ k, k < 3 * s.hdr.w.toNat → s.prevAt k = 0) (hi : s.fl.i < s.rowBytes) :
      s.up s.fl.i = 0 ∧ s.upLeft s.fl.i = 0 := ⟨h _ hi, leftOf_zero h hi⟩
  have hleft (h : s.fl.i < 3) : s.left s.fl.i = 0 ∧ s.upLeft s.fl.i = 0 := ⟨leftOf_edge _ h, leftOf_edge _ h⟩
  refine ⟨fun hzero => ⟨reconByte_congr fun hi => ?upNone, reconByte_congr fun hi => ?paethSub,
      fun hedge => reconByte_congr fun hi => ?avgNone⟩,
    fun hedge => ⟨reconByte_congr fun _ => ?subNone, reconByte_congr fun _ => ?paethUp⟩,
    fun filt hi hf => ⟨fun hzero hin => reconByte_stores (t := .avg) hi hf ?avgLeft,
      fun hedge => reconByte_stores (t := .avg) hi hf ?avgUp⟩⟩
  case upNone => exact (hup hzero hi).1
  case paethSub => rw [(hup hzero hi).1, (hup hzero hi).2]; exact paeth_zero_above _
  case avgNone => rw [(hup hzero hi).1, (hleft hedge).1]; rfl
  case subNone => exact (hleft hedge).1
  case paethUp => rw [(hleft hedge).1, (hleft hedge).2]; exact paeth_zero_left _
  case avgLeft =>
    have ha : s.left s.fl.i = s.curAt (s.fl.i - 3) := if_pos hin
    rw [(hup hzero hi).1, ha]
    exact byte_add_ofNat ..
  case avgUp =>
    rw [(hleft hedge).1]
    exact (congrArg (filt + ·) (average_zero_left _)).trans (byte_add_ofNat ..)

/-! ### The moves of `DefilterRows` -/

theorem exec_rowIllegal (ft : Byte) (s : State) :
    exec (.rowIllegal ft) s = .next (failState 2 13 0x49444154 s.fl.fpos 0 0 s) := rfl

/-- A row whose type is none of R103's performs no operation but `ROW.ILLEGAL`, wherever `I` stands. -/
theorem fetch_rowIllegal {s : State} (hs : s.st = .defilterRows) (hm : s.micro = .bytes) (hft : 4 < s.fl.ft.toNat) :
    fetch s = some (.rowIllegal s.fl.ft) := by
  simp [fetch, hs, hm, ofCode_none.2 hft]

/-- Settles O27: nothing follows in `Failed`, so the step is the operation. -/
theorem illegalRowTypeRaisesFormatError : Obligations.IllegalRowTypeRaisesFormatError := by
  refine ⟨fun s ft => exec_rowIllegal ft s, fun s hhost hs hm hft => ?_⟩
  rw [step_of_host_nil hhost, blockMove_of_fetch (fetch_rowIllegal hs hm hft), exec_rowIllegal]
  rfl

/-- Before its first row the block's move is the length check. -/
theorem blockMove_defilterEnter {s : State} (hs : s.st = .defilterRows) (hm : s.micro = .enter) :
    blockMove s = .next (defilterEnter s) := by
  simp [blockMove, fetch, innerMove, hs, hm]

/-- Settles O28: the check raises FSTREAM_LENGTH, or the row loop starts with a zero row above. -/
theorem streamLengthIsCheckedBeforeAnyRow : Obligations.StreamLengthIsCheckedBeforeAnyRow := by
  intro s hhost hs hm
  rw [step_of_host_nil hhost, blockMove_defilterEnter hs hm]
  rfl

/-- Behind the last byte of a row of a legal type the block's move is the end of the row. -/
theorem blockMove_defilterEndRow {s : State} (hs : s.st = .defilterRows) (hm : s.micro = .bytes)
    (hft : s.fl.ft.toNat ≤ 4) (hi : s.rowBytes ≤ s.fl.i) : blockMove s = .next (defilterEndRow s) := by
  obtain ⟨t, ht⟩ := Option.ne_none_iff_exists'.1 (mt ofCode_none.1 hft.not_gt)
  simp [blockMove, fetch, innerMove, hs, hm, ht, hi.not_gt]

/-- The pixel memory after the end of a row: the row at `Y * W3`, and elsewhere what was there (R180). -/
theorem defilterEndRow_pix_read (s : State) (a : Nat) :
    (defilterEndRow s).pix.read a =
      if s.fl.y.toNat * s.rowBytes ≤ a ∧ a < s.fl.y.toNat * s.rowBytes + s.rowBytes then
        some (s.curAt (a - s.fl.y.toNat * s.rowBytes))
      else s.pix.read a := by
  have hlen : (s.curCells s.rowBytes).length = s.rowBytes := lineCells_length ..
  have h := read_writeBytes (s.curCells s.rowBytes) s.pix (s.fl.y.toNat * s.rowBytes) a
  rw [hlen] at h
  exact h.trans (ite_congr rfl (fun ha => lineCells_getElem? _ _ (by omega)) fun _ => rfl)

/-- Settles O29: the two buffers a row's end writes are read back by their laws; `Y` stays below the height's range. -/
theorem rowEndStoresTheRow : Obligations.RowEndStoresTheRow := by
  intro s hhost hs hm hft hi hy n
  refine ⟨defilterEndRow s, ?step, rfl, ?y, defilterEndRow_pix_read s, prevAt_copyRow s n⟩
  case step => rw [step_of_host_nil hhost, blockMove_defilterEndRow hs hm hft hi.ge]
  case y =>
    have hrange := s.hdr.h.isLt
    show (s.fl.y + 1).toNat = s.fl.y.toNat + 1
    bv_omega

end Sys2Proof.Machine
end

section
/-! The filter engine on encode (R186 to R195): reconstruction undoes filtering row by row, the filtered byte as a number, the
row head of `FilterRows`, and the choice of the filter type as the least of an order. -/

namespace Sys2Proof.Machine

/-! ### Reconstruction undoes filtering -/

/-- `left` looks at cells before its own only, so it does not see what is appended later. -/
theorem leftOf_cellOf_append (acc rest : List Byte) :
    leftOf (cellOf acc) acc.length = leftOf (cellOf (acc ++ rest)) acc.length := by
  unfold leftOf
  split
  case isTrue h =>
    have hlt : acc.length - Config.bpp < acc.length := Nat.sub_lt_self (by decide) h
    exact (List.getD_append _ _ _ _ hlt).symm
  case isFalse => rfl

/-- The filtered byte plus its predictor is the original byte: on both sides the predictor sees the same neighbours. -/
theorem filteredByte_add_predictor (t : FilterType) (above : Nat → Byte) (acc : List Byte) (b : Byte) (rest : List Byte) :
    filteredByte t (cellOf (acc ++ b :: rest)) above acc.length +
      predictor t (leftOf (cellOf acc) acc.length) (above acc.length) (leftOf above acc.length) = b := by
  have hcell : cellOf (acc ++ b :: rest) acc.length = b := by simp [cellOf]
  rw [leftOf_cellOf_append acc (b :: rest), filteredByte, BitVec.sub_add_cancel, hcell]

/-- With the front `acc` of a row reconstructed, the filtered bytes behind it give the rest (R191). -/
theorem reconRow_filtered (t : FilterType) (above : Nat → Byte) (rest acc : List Byte) :
    reconRow t above acc
      ((List.range' acc.length rest.length).map (filteredByte t (cellOf (acc ++ rest)) above)) = acc ++ rest := by
  induction rest generalizing acc with
  | nil => simp [reconRow]
  | cons b rest ih =>
    have hrest := ih (acc ++ [b])
    rw [List.append_assoc, List.singleton_append, List.length_append, List.length_singleton] at hrest
    rw [List.length_cons, List.range'_succ, List.map_cons, reconRow, filteredByte_add_predictor, hrest]

theorem reconRow_filterRow (t : FilterType) (above : Nat → Byte) (row : List Byte) :
    reconRow t above [] ((List.range row.length).map (filteredByte t (cellOf row) above)) = row := by
  rw [List.range_eq_range']
  exact reconRow_filtered t above row []

/-- The decoder's turn on one filtered row: the row comes back, and the rows below go on under it (R179, R191). -/
theorem defilter_filterRowBytes (t : FilterType) (row above f : List Byte) (rows fpos : Nat) :
    defilter row.length (rows + 1) fpos above (filterRowBytes t row.length row above ++ f) =
      (defilter row.length rows (fpos + 1 + row.length) row f).map (row ++ ·) := by
  have hlen : ((List.range row.length).map (filteredByte t (cellOf row) (cellOf above))).length = row.length := by simp
  rw [filterRowBytes, List.cons_append, defilter, ofCode_code]
  simp only [List.take_left' hlen, List.drop_left' hlen, reconRow_filterRow]
  cases defilter row.length rows (fpos + 1 + row.length) row f <;> rfl

theorem filterRowBytes_length (t : FilterType) (n : Nat) (row above : List Byte) :
    (filterRowBytes t n row above).length = 1 + n := by
  simp [filterRowBytes, Nat.add_comm]

/-- A filter-type byte and a row of `n` bytes for each type (R194). -/
theorem filterWith_length (n : Nat) (ts : List FilterType) (above data : List Byte) :
    (filterWith n ts above data).length = ts.length * (1 + n) := by
  induction ts generalizing above data with
  | nil => simp [filterWith]
  | cons t ts ih =>
    rw [filterWith, List.length_append, filterRowBytes_length, ih, List.length_cons, Nat.succ_mul, Nat.add_comm]

/-- Row by row, under the same row above as the encoder's, the decoder gets the image back (R191). -/
theorem defilter_filterWith (n : Nat) (ts : List FilterType) (fpos : Nat) (above data : List Byte)
    (h : data.length = ts.length * n) : defilter n ts.length fpos above (filterWith n ts above data) = .ok data := by
  induction ts generalizing fpos above data with
  | nil =>
    obtain rfl : data = [] := List.length_eq_zero_iff.1 (by simpa using h)
    rfl
  | cons t ts ih =>
    rw [List.length_cons, Nat.succ_mul] at h
    have hrow : (data.take n).length = n := by simp [h]
    have hrest : (data.drop n).length = ts.length * n := by simp [h]
    have hturn := defilter_filterRowBytes t (data.take n) above (filterWith n ts (data.take n) (data.drop n)) ts.length fpos
    rw [hrow, ih _ _ _ hrest] at hturn
    rw [List.length_cons, filterWith, hturn, Except.map, List.take_append_drop]

/-- The block's choices are such a list of types, one for each row (R192, R194). -/
theorem exists_filterImage_eq_filterWith (fctl : Byte) (n rows : Nat) (above data : List Byte) :
    ∃ ts : List FilterType, ts.length = rows ∧ filterImage fctl n rows above data = filterWith n ts above data := by
  induction rows generalizing above data with
  | zero => exact ⟨[], rfl, rfl⟩
  | succ rows ih =>
    obtain ⟨ts, hlen, hts⟩ := ih (data.take n) (data.drop n)
    exact ⟨fsel fctl (data.take n) above :: ts, congrArg Nat.succ hlen, congrArg (_ ++ ·) hts⟩

/-- Settles O33: by induction on the rows, and inside a row on its bytes. -/
theorem filteringIsUndoneByReconstruction : Obligations.FilteringIsUndoneByReconstruction :=
  ⟨fun n fpos ts above data h => ⟨defilter_filterWith n ts fpos above data h, filterWith_length n ts above data⟩,
    exists_filterImage_eq_filterWith⟩

/-! ### The filtered byte -/

theorem byte_sub (x y : Byte) : x - y = BitVec.ofNat 8 ((256 + x.toNat - y.toNat) % 256) := by
  refine BitVec.eq_of_toNat_eq ?_
  rw [BitVec.toNat_sub, BitVec.toNat_ofNat]
  omega

/-- One filtered byte, its value under another name. -/
theorem filtByte_emits {t : FilterType} {s : State} {v : Byte} (hi : s.fl.i < s.rowBytes)
    (hv : s.curAt s.fl.i - predictor t (s.left s.fl.i) (s.up s.fl.i) (s.upLeft s.fl.i) = v) :
    filtByte t s = .next { s with fbuf := s.fbuf ++ [v], fl := { s.fl with i := s.fl.i + 1 } } :=
  hv ▸ filtByte_next t s hi

/-- Settles O30: every operation emits the original byte less its predictor, which is 0, a neighbour, `average` or `paeth`. -/
theorem filteredByteOfEachType : Obligations.FilteredByteOfEachType := by
  intro s hi orig a b c emitted
  have next (t : FilterType) {v : Nat} (hv : s.curAt s.fl.i - predictor t a b c = BitVec.ofNat 8 v) :
      exec (filtOf t) s = .next (emitted v) := (exec_filtOf t s).trans (filtByte_emits hi hv)
  refine ⟨?none, ?sub, ?up, ?avg, ?paeth⟩
  case none => exact next .none (by simp [predictor, orig])
  case sub => exact next .sub (byte_sub ..)
  case up => exact next .up (byte_sub ..)
  case avg => exact next .avg ((byte_sub ..).trans (by rw [predictor, average_toNat]))
  case paeth => exact next .paeth (byte_sub ..)

/-! ### The head of a row -/

/-- A filter-type code is a legal filter-type byte (R103). -/
theorem code_le_four (t : FilterType) : t.code.toNat ≤ 4 := by
  cases t <;> decide

/-- The row loop's move between two rows is the head of a row. -/
theorem blockMove_filterRow {s : State} (hs : s.st = .filterRows) (hm : s.micro = .row) :
    blockMove s = .next (filterRow s) := by
  simp [blockMove, fetch, innerMove, hs, hm]

/-- `CUR` with the row's original bytes in front (R194). -/
def State.loadRow (s : State) : State :=
  { s with cur := s.pixBytes (s.fl.y.toNat * s.rowBytes) s.rowBytes ++ s.cur.drop s.rowBytes }

@[simp] theorem pixBytes_length (s : State) (a n : Nat) : (s.pixBytes a n).length = n := by
  simp [State.pixBytes]

/-- The loaded row is the pixel memory's, at `Y * W3` (R194). -/
theorem curCells_loadRow (s : State) :
    s.loadRow.curCells s.rowBytes = s.pixBytes (s.fl.y.toNat * s.rowBytes) s.rowBytes := by
  have hlen := pixBytes_length s (s.fl.y.toNat * s.rowBytes) s.rowBytes
  rw [State.curCells, lineCells_eq_take _ _ _ (by simp [State.loadRow]), State.loadRow, List.take_left' hlen]

theorem curAt_loadRow (s : State) (k : Nat) :
    s.loadRow.curAt k = if k < s.rowBytes then s.pixByte (s.fl.y.toNat * s.rowBytes + k) else s.curAt k := by
  have h := lineRead_append_drop (Config.freeCur s.epoch) (s.pixBytes (s.fl.y.toNat * s.rowBytes) s.rowBytes) s.cur k
  rw [pixBytes_length] at h
  exact h.trans (ite_congr rfl (fun hk => by simp [lineRead, State.pixBytes, hk]) fun _ => rfl)

/-- The head of a row, with the row it loads and the choice it makes of it (R192, R194). -/
theorem filterRow_eq {s : State} (hy : s.fl.y.toNat < s.hdr.h.toNat) {ft : Byte}
    (hft : ft = (fsel s.cfg.fctl (s.pixBytes (s.fl.y.toNat * s.rowBytes) s.rowBytes) (s.prevCells s.rowBytes)).code) :
    filterRow s = { s.loadRow with
      fl := { s.fl with ft := ft, i := 0 }
      fbuf := s.fbuf ++ [ft]
      micro := .bytes } := by
  rw [hft, ← curCells_loadRow]
  exact if_pos hy

/-- Settles O31: the loaded row is read back by the line buffer's law, and the choice is a code of R103. -/
theorem rowHeadLoadsAndChooses : Obligations.RowHeadLoadsAndChooses := by
  intro s hhost hs hm hy n
  refine ⟨filterRow s, (step_of_host_nil hhost).trans (blockMove_filterRow hs hm), ?_⟩
  rw [filterRow_eq hy rfl]
  exact ⟨rfl, curAt_loadRow s, rfl, code_le_four _⟩

/-! ### The filter choice -/

theorem absByte_eq_natAbs_toInt (v : Byte) : absByte v = v.toInt.natAbs := by
  rw [absByte, BitVec.toInt_eq_toNat_cond]
  split <;> split <;> omega

theorem absByte_le (v : Byte) : absByte v ≤ 128 := by
  unfold absByte
  split <;> omega

theorem cost_le (t : FilterType) (row above : List Byte) : cost t row above ≤ 128 * row.length := by
  have hbyte : ∀ x ∈ (List.range row.length).map fun i => absByte (filteredByte t (cellOf row) (cellOf above) i), x ≤ 128 :=
    List.forall_mem_map.2 fun i _ => absByte_le _
  simpa [cost, Nat.mul_comm] using List.sum_le_card_nsmul _ _ hbyte

/-- What the adaptive choice makes least: the cost, and among equal costs the code (R192). -/
def costThenCode (row above : List Byte) (t : FilterType) : ℕ ×ₗ ℕ := toLex (cost t row above, t.code.toNat)

theorem costThenCode_le {row above : List Byte} {t u : FilterType} :
    costThenCode row above t ≤ costThenCode row above u ↔
      cost t row above < cost u row above ∨ cost t row above = cost u row above ∧ t.code.toNat ≤ u.code.toNat :=
  Prod.Lex.toLex_le_toLex

/-- One comparison keeps the lesser, if the type compared has not the smaller code. -/
theorem costThenCode_cheaper_le (row above : List Byte) {best t : FilterType} (h : best.code.toNat ≤ t.code.toNat) :
    costThenCode row above (cheaper row above best t) ≤ costThenCode row above best ∧
      costThenCode row above (cheaper row above best t) ≤ costThenCode row above t := by
  unfold cheaper
  split
  case isTrue hlt => exact ⟨costThenCode_le.2 (.inl hlt), le_rfl⟩
  case isFalse hge => exact ⟨le_rfl, costThenCode_le.2 ((not_lt.1 hge).lt_or_eq.imp_right fun he => ⟨he, h⟩)⟩

/-- What is kept and the types still to be compared are in the order of their codes if the whole list is. -/
theorem pairwise_cheaper_cons (row above : List Byte) {r : FilterType → FilterType → Prop} {best t : FilterType}
    {ts : List FilterType} (h : (best :: t :: ts).Pairwise r) : (cheaper row above best t :: ts).Pairwise r := by
  unfold cheaper
  split
  · exact h.of_cons
  · exact h.sublist (.cons_cons best (List.sublist_cons_self t ts))

/-- Comparing the types of a list in the order of their codes leaves the least of all. -/
theorem costThenCode_foldl_cheaper_le (row above : List Byte) {best : FilterType} {ts : List FilterType}
    (hts : (best :: ts).Pairwise fun t u => t.code.toNat ≤ u.code.toNat) :
    ∀ u ∈ best :: ts, costThenCode row above (ts.foldl (cheaper row above) best) ≤ costThenCode row above u := by
  induction ts generalizing best with
  | nil => simp
  | cons t ts ih =>
    have hcode : best.code.toNat ≤ t.code.toNat := List.rel_of_pairwise_cons hts List.mem_cons_self
    obtain ⟨hbest, ht⟩ := costThenCode_cheaper_le row above hcode
    obtain ⟨hkept, hrest⟩ := List.forall_mem_cons.1 (ih (pairwise_cheaper_cons row above hts))
    exact List.forall_mem_cons.2 ⟨hkept.trans hbest, List.forall_mem_cons.2 ⟨hkept.trans ht, hrest⟩⟩

/-- No type costs less than the adaptive choice, and none that costs the same has a smaller code (R192). -/
theorem costThenCode_adaptive_le (row above : List Byte) (t : FilterType) :
    costThenCode row above (adaptive row above) ≤ costThenCode row above t :=
  costThenCode_foldl_cheaper_le row above (by decide) t (by cases t <;> decide)

theorem fsel_code (t : FilterType) (row above : List Byte) : fsel t.code row above = t := by
  rw [fsel, ofCode_code]

theorem fsel_five (row above : List Byte) : fsel 5 row above = adaptive row above := rfl

/-- Settles O32: the adaptive choice is least by cost and then by code, and a byte's absolute value is at most 128. -/
theorem filterChoiceFollowsTheRegister : Obligations.FilterChoiceFollowsTheRegister := by
  intro row above
  rw [fsel_five]
  have hleast (t : FilterType) := costThenCode_le.1 (costThenCode_adaptive_le row above t)
  refine ⟨fun t => fsel_code t row above, fun t => ?least, fun t htie => ?smallest, fun t => ?sum,
    fun t => cost_le t row above⟩
  case least => exact (hleast t).elim le_of_lt fun ⟨he, _⟩ => he.le
  case smallest => exact (hleast t).elim (fun hlt => absurd htie hlt.ne') fun ⟨_, hcode⟩ => hcode
  case sum => simp only [cost, absByte_eq_natAbs_toInt]

end Sys2Proof.Machine
end

section
/-! The accessors of the pixel memory (R201 to R207): `PIX.GET` and `PIX.SET` outside the image, the three bytes a `PIX.SET`
writes, and `PIXVALID` as the statement that every byte of the image has been written. -/

namespace Sys2Proof.Machine

/-! ### Outside the image -/

theorem outOfRange_eq_true_iff (s : State) :
    s.outOfRange = true ↔ s.img.px.toNat ≥ s.img.width.toNat ∨ s.img.py.toNat ≥ s.img.height.toNat :=
  decide_eq_true_iff

theorem exec_pixGet_outOfRange {s : State} (hb : s.status.busy = false) (hr : s.outOfRange = true) :
    exec .pixGet s = .next (s.setOor true) := by
  simp [exec, execPixGet, hb, hr]

theorem exec_pixSet_outOfRange {s : State} (hb : s.status.busy = false) (hr : s.outOfRange = true) :
    exec .pixSet s = .next (s.setOor true) := by
  simp [exec, execPixSet, hb, hr]

/-! ### Reads -/

/-- Settles O34: the two branches of the bounds test, and the bytes of the pixel are those from three times its number on. -/
theorem pixelReadReturnsItsThreeBytes : Obligations.PixelReadReturnsItsThreeBytes := by
  intro s hb a
  cases hr : s.outOfRange with
  | true =>
    rw [if_pos ((outOfRange_eq_true_iff s).1 hr)]
    exact exec_pixGet_outOfRange hb hr
  | false =>
    rw [if_neg (mt (outOfRange_eq_true_iff s).2 (by simp [hr]))]
    exact exec_pixGet_inRange hb hr

/-- Settles O37: a read of the size is the delivery of its register (R204). -/
theorem imageSizeReadsHaveNoSideEffect : Obligations.ImageSizeReadsHaveNoSideEffect :=
  ⟨fun _ => rfl, fun _ => rfl⟩

/-! ### Writes -/

/-- The pixel memory after the write of three bytes. -/
theorem read_writeBytes_three (m : Memory) (a k : Nat) (r g b : Byte) :
    (m.writeBytes a [r, g, b]).read k =
      if k = a then some r else if k = a + 1 then some g else if k = a + 2 then some b else m.read k := by
  simp only [Memory.writeBytes, read_write]
  grind

/-- Settles O35: outside the image only `OOR` is set, and inside it the three bytes are written, which the memory's laws read
back. -/
theorem pixelWriteChangesItsThreeBytes : Obligations.PixelWriteChangesItsThreeBytes := by
  intro s hb a
  refine ⟨fun hout => exec_pixSet_outOfRange hb ((outOfRange_eq_true_iff s).2 hout), fun hx hy => ?_⟩
  refine ⟨_, exec_pixSet_inRange hb ((outOfRange_eq_false_iff s).2 ⟨hx, hy⟩), rfl, fun k => ?bytes, fun hv => ?valid,
    writeBytes_wf _ _ _⟩
  case bytes => exact read_writeBytes_three s.pix a k _ _ _
  case valid => simp [hv]

/-! ### The image is complete -/

theorem exists_mem_of_isSome_read {m : Memory} {a : Nat} (h : (m.read a).isSome) : ∃ c ∈ m, c.1 = a := by
  induction m with
  | nil => cases h
  | cons d m ih =>
    rw [Memory.read] at h
    split at h
    case isTrue here => exact ⟨d, List.mem_cons_self, here.symm⟩
    case isFalse =>
      obtain ⟨c, hc, hca⟩ := ih h
      exact ⟨c, List.mem_cons_of_mem d hc, hca⟩

/-- In canonical form the memory lists as many addresses below `n` as there are exactly if it lists each of them. -/
theorem full_iff_isSome {m : Memory} (hm : Memory.wf m) (n : Nat) :
    (m.filter fun c => decide (c.1 < n)).length = n ↔ ∀ a, a < n → (m.read a).isSome := by
  refine ⟨isSome_of_full m n hm, fun h => ?_⟩
  have hnodup : ((m.filter fun c => decide (c.1 < n)).map (·.1)).Nodup :=
    List.Pairwise.map _ (fun _ _ hlt => Nat.ne_of_lt hlt) (hm.filter _)
  have hmem (a : Nat) : a ∈ (m.filter fun c => decide (c.1 < n)).map (·.1) ↔ a ∈ List.range n := by
    simp only [List.mem_map, List.mem_filter, decide_eq_true_eq, List.mem_range]
    constructor
    · rintro ⟨c, ⟨-, hc⟩, rfl⟩
      exact hc
    · intro ha
      obtain ⟨c, hc, rfl⟩ := exists_mem_of_isSome_read (h a ha)
      exact ⟨c, ⟨hc, ha⟩, rfl⟩
  simpa using ((List.perm_ext_iff_of_nodup hnodup List.nodup_range).2 hmem).length_eq

/-- The image is complete when its size is one the block accepts and every byte has been written (R206, R207). -/
theorem imageComplete_iff {s : State} (hm : Memory.wf s.pix) :
    s.imageComplete = true ↔
      sizeOk s.build s.img.width s.img.height ∧ ∀ a, a < s.imageBytes → (s.pix.read a).isSome := by
  rw [State.imageComplete, decide_eq_true_iff, full_iff_isSome hm, sizeOk]
  tauto

/-- Settles O38: a write of the size is `dropImage`, and after a `PIX.SET` the image is valid if it was or is complete. -/
theorem imageBecomesValidWhenEveryPixelIsWritten : Obligations.ImageBecomesValidWhenEveryPixelIsWritten := by
  refine ⟨fun s v rest hb => ⟨fun h => ?width, fun h => ?height⟩, fun s t hm hb hset hx hy => ?valid⟩
  case width => exact ⟨_, step_write_idle h (by simp) hb, rfl⟩
  case height => exact ⟨_, step_write_idle h (by simp) hb, rfl⟩
  case valid =>
    rw [exec_pixSet_inRange hb ((outOfRange_eq_false_iff s).2 ⟨hx, hy⟩)] at hset
    cases hset
    simp only [updatePixvalid_status, Bool.or_eq_true]
    exact or_congr_right (imageComplete_iff (writeBytes_wf _ _ _ hm))

end Sys2Proof.Machine
end

section
/-! Every step keeps the invariant: first the invariant by phase, that is what it asks of a state in which a command runs or
has ended, then the moves of DECODE, of ENCODE and of the host. Every error goes to `inv_failed`. -/

namespace Sys2Proof.Machine

/-! ### What the invariant asks of each phase -/

/-- A valid image is whole and its size is within bounds (R207). -/
def State.ImageWhole (s : State) : Prop :=
  s.status.pixvalid = true →
    sizeOk s.build s.img.width s.img.height ∧ ∀ a, a < s.imageBytes → (s.pix.read a).isSome

/-- `STATUS` and the report while a command runs (R30, R31). -/
def RunFlags (status : Status) (err : ErrReport) : Prop :=
  status.busy = true ∧ status.done = false ∧ status.failed = false ∧ err.kind = 0

/-- No chunk has been seen (R210). -/
def State.HeaderUnseen (s : State) : Prop := s.rd.seenIhdr = false ∧ s.rd.seenIend = false

/-- The header has been seen, with a size the block accepts (R137). -/
def State.HeaderSeen (s : State) : Prop := s.rd.seenIhdr = true ∧ sizeOk s.build s.hdr.w s.hdr.h

/-- `F` has the length of the header's image, and the rows above row `Y` are done (R178, R179). -/
def State.RowsDone (s : State) : Prop :=
  s.fbuf.length = s.hdr.h.toNat * (1 + s.rowBytes) ∧ s.fl.y.toNat ≤ s.hdr.h.toNat ∧
    s.fl.fpos = s.fl.y.toNat * (1 + s.rowBytes) ∧ ∀ a, a < s.fl.y.toNat * s.rowBytes → (s.pix.read a).isSome

/-- Where DECODE stands in a state of the sequencer (R215 to R220). -/
def State.DecodePosition (s : State) : SeqState → Prop
  | .readSignature => s.rd.pos = 0 ∧ s.HeaderUnseen
  | .readIHDR => s.rd.pos = 8 ∧ s.rd.pos ≤ s.ports.inp.length ∧ s.HeaderUnseen
  | .collectDataChunks => s.rd.pos ≤ s.ports.inp.length ∧ s.HeaderSeen
  | .inflate => s.HeaderSeen
  | .defilterRows => s.HeaderSeen ∧ (s.micro = .row ∨ s.micro = .bytes → s.RowsDone) ∧
      (s.micro = .bytes → s.fl.y.toNat < s.hdr.h.toNat)
  | _ => True

/-- What holds while DECODE runs: there is no image, and the block is at a position of its own. -/
def State.DecodeRuns (s : State) : Prop :=
  (s.img.width = 0 ∧ s.img.height = 0 ∧ s.status.pixvalid = false) ∧ s.DecodePosition s.st

/-- What holds while ENCODE runs: the image is there, the header registers hold its size, and `OPOS` counts `OUT`. -/
def State.EncodeRuns (s : State) : Prop :=
  (s.status.pixvalid = true ∧ s.hdr.w = s.img.width ∧ s.hdr.h = s.img.height) ∧ s.wr.opos = s.ports.out.length

theorem running_of_decoding {st : SeqState} (h : st.decoding = true) : st.running = true := by
  cases st <;> revert h <;> decide

theorem running_of_encoding {st : SeqState} (h : st.encoding = true) : st.running = true := by
  cases st <;> revert h <;> decide

theorem not_ended_of_running {st : SeqState} (h : st.running = true) : st ≠ .done ∧ st ≠ .failed := by
  cases st <;> revert h <;> decide

theorem Inv.runFlags {s : State} (h : Inv s) (hrun : s.st.running = true) : RunFlags s.status s.err := by
  obtain ⟨hdone, hfailed⟩ := not_ended_of_running hrun
  exact ⟨h.busyIffRunning.trans hrun, h.doneIffDone.trans (decide_eq_false hdone),
    h.failedIffFailed.trans (decide_eq_false hfailed), not_not.1 (mt h.reportIffFailed.1 hfailed)⟩

/-- The invariant of a state in which a command runs. -/
theorem inv_of_running {t : State} (hrun : t.st.running = true) (hflags : RunFlags t.status t.err)
    (hfctl : t.cfg.fctl.toNat ≤ 5) (hidatmax : t.cfg.idatmax ≠ 0) (hpix : Memory.wf t.pix) (himage : t.ImageWhole)
    (hdec : t.st.decoding = true → t.DecodeRuns) (henc : t.st.encoding = true → t.EncodeRuns) : Inv t := by
  obtain ⟨hbusy, hdone, hfailed, hkind⟩ := hflags
  obtain ⟨hnotdone, hnotfailed⟩ := not_ended_of_running hrun
  have position {st : SeqState} (ht : t.st = st) (hd : st.decoding = true) : t.DecodePosition st := by
    subst ht
    exact (hdec hd).2
  exact {
    pixWf := hpix
    fctlLegal := hfctl
    idatmaxLegal := hidatmax
    busyIffRunning := hbusy.trans hrun.symm
    doneIffDone := hdone.trans (decide_eq_false hnotdone).symm
    failedIffFailed := hfailed.trans (decide_eq_false hnotfailed).symm
    reportIffFailed := ⟨fun hk => absurd hkind hk, fun ht => absurd ht hnotfailed⟩
    idleBuffersEmpty := fun hidle => absurd (hrun.symm.trans hidle) (by decide)
    validImage := himage
    decodeHidesImage := fun hd => (hdec hd).1
    signaturePos := fun ht => (position ht rfl).1
    headerPos := fun ht => (position ht rfl).1
    posInside := fun ht => ht.elim (fun ht => (position ht rfl).2.1) fun ht => (position ht rfl).1
    headerUnseen := fun ht => ht.elim (fun ht => (position ht rfl).2) fun ht => (position ht rfl).2.2
    headerSeen := by
      rintro (ht | ht | ht)
      · exact (position ht rfl).2
      · exact position ht rfl
      · exact (position ht rfl).1
    rowPosition := fun ⟨ht, hm⟩ => (position ht rfl).2.1 hm
    insideRow := fun ⟨ht, hm⟩ => (position ht rfl).2.2 hm
    encodeHasImage := fun he => (henc he).1
    oposCounts := fun he => (henc he).2 }

/-- The invariant of the state in which a command has ended without an error. -/
theorem Inv.done {s t : State} (h : Inv s) (hrun : s.st.running = true) (hst : t.st = .done)
    (hstatus : t.status = { s.status with busy := false, done := true, pixvalid := t.status.pixvalid })
    (herr : t.err = s.err) (hcfg : t.cfg = s.cfg) (hz : t.zbuf = []) (hf : t.fbuf = []) (hpix : Memory.wf t.pix)
    (himage : t.ImageWhole) : Inv t := by
  obtain ⟨-, -, hfailed, hkind⟩ := h.runFlags hrun
  constructor <;> try simp [hst, SeqState.running, SeqState.decoding, SeqState.encoding, SeqState.code, State.inRows]
  case pixWf => exact hpix
  case fctlLegal => exact hcfg ▸ h.fctlLegal
  case idatmaxLegal => exact hcfg ▸ h.idatmaxLegal
  case busyIffRunning => rw [hstatus]
  case doneIffDone => rw [hstatus]
  case failedIffFailed => rw [hstatus]; exact hfailed
  case reportIffFailed => rw [herr]; exact hkind
  case idleBuffersEmpty => exact ⟨hz, hf⟩
  case validImage => exact himage

/-! ### DECODE -/

/-- In `t` the DECODE of `s` still runs, at a position of its own and with the flags, the report and the registers of the
image as they were. -/
structure DecodeGoesOn (s t : State) : Prop where
  position : ∃ st : SeqState, t.st = st ∧ st.decoding = true ∧ t.DecodePosition st
  status : t.status = s.status
  err : t.err = s.err
  img : t.img = s.img
  pixWf : Memory.wf t.pix

theorem Inv.decodeGoesOn {s t : State} (h : Inv s) (hd : s.st.decoding = true) (hc : DecodeChange s t)
    (g : DecodeGoesOn s t) : Inv t := by
  obtain ⟨⟨st, rfl, hd', hp⟩, hstatus, herr, himg, hpix⟩ := g
  have hhides := h.decodeHidesImage hd
  have hflags := h.runFlags (running_of_decoding hd)
  rw [← himg, ← hstatus] at hhides
  rw [← hstatus, ← herr] at hflags
  have hcfg : t.cfg = s.cfg := by rw [hc.eq]
  refine inv_of_running (running_of_decoding hd') hflags (hcfg ▸ h.fctlLegal) (hcfg ▸ h.idatmaxLegal) hpix
    (fun hv => ?image) (fun _ => ⟨hhides, hp⟩) (fun he => ?encoding)
  case image => simp [hhides.2.2] at hv
  case encoding => simp [not_encoding_of_decoding hd'] at he

/-- What `RD.SIG` can do. -/
theorem execRdSig_ends {s u : State} (h : execRdSig s = .next u) :
    FailedFrom s u ∨ 8 ≤ s.ports.inp.length ∧ u = { s with rd := { s.rd with pos := 8, chunkoff := 0, type := 0 } } := by
  have raised (c : Cause) : FailedFrom s (raise c { s with rd := { s.rd with chunkoff := 0, type := 0 } }) :=
    raise_failedFrom c s _ rfl rfl rfl rfl rfl
  unfold execRdSig at h
  dsimp only at h
  split at h
  · cases h; exact .inl (raised _)
  next havail =>
    split at h
    · cases h; exact .inl (raised _)
    split at h <;> cases h
    · exact .inr ⟨not_lt.1 havail, rfl⟩
    · exact .inl (raised _)

/-- `t` is what `RD.CHUNK` makes of `s` when it takes the chunk (R132, R137 to R140). -/
structure ChunkTaken (s t : State) : Prop where
  eq : t = { s with crcacc := t.crcacc, rd := t.rd, hdr := t.hdr, zbuf := t.zbuf }
  pos : t.rd.pos ≤ t.ports.inp.length
  headerSeen : (s.rd.seenIhdr = true → sizeOk s.build s.hdr.w s.hdr.h) → t.HeaderSeen

theorem execChunkIhdr_ends {payload : List Byte} {s u : State} (hpos : s.rd.pos ≤ s.ports.inp.length)
    (h : execChunkIhdr payload s = .next u) : FailedFrom s u ∨ ChunkTaken s u := by
  unfold execChunkIhdr at h
  split at h
  · cases h; exact .inl (raise_failedFrom _ _ _ rfl rfl rfl rfl rfl)
  split at h
  · cases h
  dsimp only at h
  split at h <;> cases h
  · exact .inl (raise_failedFrom _ _ _ rfl rfl rfl rfl rfl)
  next hdefect => exact .inr ⟨rfl, hpos, fun _ => ⟨rfl, defect_none hdefect⟩⟩

/-- What the dispatch of a chunk can do (R134 to R140). -/
theorem dispatchChunk_ends {payload : List Byte} {s u : State} (hpos : s.rd.pos ≤ s.ports.inp.length)
    (h : dispatchChunk payload s = .next u) : FailedFrom s u ∨ ChunkTaken s u := by
  have raised (c : Cause) : FailedFrom s (raise c s) := raise_failedFrom c s s rfl rfl rfl rfl rfl
  unfold dispatchChunk at h
  split at h
  · split at h
    · cases h; exact .inl (raised _)
    · exact execChunkIhdr_ends hpos h
  next hseen =>
    replace hseen : s.rd.seenIhdr = true := by simpa using hseen
    split at h
    · cases h; exact .inl (raised _)
    split at h
    · cases h; exact .inr ⟨rfl, hpos, fun hs => ⟨hseen, hs hseen⟩⟩
    split at h
    · unfold execChunkIend at h
      split at h <;> cases h
      · exact .inl (raised _)
      · exact .inr ⟨rfl, hpos, fun hs => ⟨hseen, hs hseen⟩⟩
    · cases h; exact .inr ⟨rfl, hpos, fun hs => ⟨hseen, hs hseen⟩⟩

/-- What `RD.CHUNK` can do. -/
theorem execRdChunk_ends {s u : State} (h : execRdChunk s = .next u) : FailedFrom s u ∨ ChunkTaken s u := by
  rw [execRdChunk_eq_dispatch] at h
  rcases frameChunk_cases s with ⟨c, v, hf, hv⟩ | ⟨v, payload, hf, hv, -, -, -, hpos⟩
  · rw [hf] at h
    cases h
    refine .inl (raise_failedFrom c s v ?_ ?_ ?_ ?_ ?_) <;> rw [hv.eq]
  · rw [hf] at h
    have hseen := hv.seenIhdr
    rw [hv.eq] at hpos hseen h
    rcases dispatchChunk_ends hpos h with hu | ⟨heq, hpos, hheader⟩
    · exact .inl { hu with }
    · exact .inr ⟨heq, hpos, fun hs => hheader fun hseen' => hs (hseen.symm.trans hseen')⟩

/-- With its row ended one row more is done (R179, R180). -/
theorem rowsDone_defilterEndRow {s : State} (h : s.RowsDone) (hy : s.fl.y.toNat < s.hdr.h.toNat) :
    (defilterEndRow s).RowsDone := by
  obtain ⟨hlen, -, hfpos, hrows⟩ := h
  have hnext : (s.fl.y + 1).toNat = s.fl.y.toNat + 1 := by
    have hrange := s.hdr.h.isLt
    bv_omega
  refine ⟨hlen, ?y, ?fpos, fun a ha => ?rows⟩
  case y => exact hnext.trans_le hy
  case fpos =>
    show s.fl.fpos + 1 + s.rowBytes = (s.fl.y + 1).toNat * (1 + s.rowBytes)
    rw [hnext, Nat.succ_mul, hfpos, Nat.add_assoc]
  case rows =>
    replace ha : a < s.fl.y.toNat * s.rowBytes + s.rowBytes := by
      rw [← Nat.succ_mul, Nat.succ_eq_add_one, ← hnext]
      exact ha
    rw [defilterEndRow_pix_read]
    split
    case isTrue => rfl
    case isFalse hout => exact hrows a (by omega)

/-- With the last row done the image is whole (R221). -/
theorem imageWhole_commit {s : State} (hsize : sizeOk s.build s.hdr.w s.hdr.h) (h : s.RowsDone)
    (hy : s.hdr.h.toNat ≤ s.fl.y.toNat) : s.commit.ImageWhole := by
  obtain ⟨-, hle, -, hrows⟩ := h
  refine fun _ => ⟨hsize, fun a ha => hrows a ?_⟩
  calc a < s.hdr.w.toNat * s.hdr.h.toNat * 3 := ha
    _ = s.fl.y.toNat * s.rowBytes := by
      rw [le_antisymm hle hy, State.rowBytes, Config.bpp]
      ring

/-- The first move of `DefilterRows` (R178, R179). -/
theorem Inv.defilterEnter {s : State} (h : Inv s) (hs : s.st = .defilterRows) : Inv (defilterEnter s) := by
  have hd : s.st.decoding = true := by rw [hs]; rfl
  have hc := defilterEnter_change s
  unfold Machine.defilterEnter at hc ⊢
  split at hc
  case isTrue hlen =>
    rw [if_pos hlen]
    exact inv_failed h (running_of_decoding hd) (raise_failedFrom _ _ _ rfl rfl rfl rfl rfl)
  case isFalse hlen =>
    rw [if_neg hlen]
    have hrows : ∀ a, a < 0 * s.rowBytes → (s.pix.read a).isSome := fun a ha => by omega
    exact h.decodeGoesOn hd hc ⟨⟨_, hs, rfl, h.headerSeen (.inr (.inr hs)),
      fun _ => ⟨not_not.1 hlen, Nat.zero_le _, (Nat.zero_mul _).symm, hrows⟩, nofun⟩, rfl, rfl, rfl, h.pixWf⟩

/-- The head of a row, or the commit of the image (R179, R221). -/
theorem Inv.defilterRow {s t : State} (h : Inv s) (hs : s.st = .defilterRows) (hm : s.micro = .row)
    (ht : defilterRow s = .next t) : Inv t := by
  have hd : s.st.decoding = true := by rw [hs]; rfl
  have hc := defilterRow_change ht
  have hseen := h.headerSeen (.inr (.inr hs))
  have hrows : s.RowsDone := h.rowPosition ⟨hs, .inl hm⟩
  unfold Machine.defilterRow at ht
  split at ht
  case isTrue hy =>
    split at ht <;> cases ht
    exact h.decodeGoesOn hd hc ⟨⟨_, hs, rfl, hseen, fun _ => hrows, fun _ => hy⟩, rfl, rfl, rfl, h.pixWf⟩
  case isFalse hy =>
    cases ht
    exact h.done (running_of_decoding hd) rfl rfl rfl rfl rfl rfl h.pixWf
      (imageWhole_commit hseen.2 hrows (not_lt.1 hy))

/-- The end of a row (R180). -/
theorem Inv.defilterEndRow {s : State} (h : Inv s) (hs : s.st = .defilterRows) (hm : s.micro = .bytes) :
    Inv (defilterEndRow s) := by
  have hd : s.st.decoding = true := by rw [hs]; rfl
  have hrows := rowsDone_defilterEndRow (h.rowPosition ⟨hs, .inr hm⟩) (h.insideRow ⟨hs, hm⟩)
  exact h.decodeGoesOn hd ⟨rfl, .inr le_rfl⟩ ⟨⟨_, hs, rfl, h.headerSeen (.inr (.inr hs)), fun _ => hrows, nofun⟩,
    rfl, rfl, rfl, writeBytes_wf _ _ _ h.pixWf⟩

/-- A move of DECODE between two operations: the row loop (R178 to R180) or the exit of the chunk loop (R218). -/
theorem Inv.innerMove_decoding {s t : State} (h : Inv s) (hd : s.st.decoding = true) (ht : innerMove s = .next t) :
    Inv t := by
  have hc := innerMove_decoding_change hd ht
  cases hs : s.st <;> simp only [innerMove, hs] at ht hd
  case collectDataChunks =>
    cases ht
    exact h.decodeGoesOn (by rw [hs]; rfl) hc ⟨⟨_, rfl, rfl, h.headerSeen (.inl hs)⟩, rfl, rfl, rfl, h.pixWf⟩
  case defilterRows =>
    cases hm : s.micro <;> simp only [hm] at ht
    case row => exact h.defilterRow hs hm ht
    case bytes => cases ht; exact h.defilterEndRow hs hm
    all_goals cases ht; exact h.defilterEnter hs
  case filterRows => cases hd
  all_goals cases ht; exact h

/-- After a chunk the sequencer stays in the chunk loop or leaves it (R217, R218). -/
theorem ChunkTaken.goesOn {s u : State} (h : Inv s) (hs : s.st = .readIHDR ∨ s.st = .collectDataChunks)
    (hu : ChunkTaken s u) : DecodeGoesOn s (advance u) := by
  have hseen : u.HeaderSeen := hu.headerSeen fun hseen => by
    rcases hs with hs | hs
    · exact absurd (hseen.symm.trans (h.headerUnseen (.inr hs)).1) (by decide)
    · exact (h.headerSeen (.inl hs)).2
  have hwf := h.pixWf
  obtain ⟨hst, hstatus, herr, himg, hpix⟩ : u.st = s.st ∧ u.status = s.status ∧ u.err = s.err ∧ u.img = s.img ∧
      u.pix = s.pix := by rw [hu.eq]; exact ⟨rfl, rfl, rfl, rfl, rfl⟩
  rw [← hpix] at hwf
  rw [← hst] at hs
  rcases hs with hs | hs
  · have hnext : advance u = u.goto .collectDataChunks := by simp only [advance, hs]
    rw [hnext]
    exact ⟨⟨_, rfl, rfl, hu.pos, hseen⟩, hstatus, herr, himg, hwf⟩
  cases hend : u.rd.seenIend with
  | true =>
    have hnext : advance u = u.goto .inflate := by simp only [advance, hs, hend, if_true]
    rw [hnext]
    exact ⟨⟨_, rfl, rfl, hseen⟩, hstatus, herr, himg, hwf⟩
  | false =>
    have hnext : advance u = u := by simp [advance, hs, hend]
    rw [hnext]
    exact ⟨⟨_, hs, rfl, hu.pos, hseen⟩, hstatus, herr, himg, hwf⟩

/-- One byte of a row leaves the row loop where it is (R171). -/
theorem decodeGoesOn_reconByte {s u : State} {t : FilterType} (h : Inv s) (hs : s.st = .defilterRows)
    (hm : s.micro = .bytes) (hu : reconByte t s = .next u) : DecodeGoesOn s (advance u) := by
  obtain ⟨-, v, rfl⟩ := reconByte_cases t s u hu
  have hrows : s.RowsDone := h.rowPosition ⟨hs, .inr hm⟩
  simp only [advance, setCur_st, hs]
  exact ⟨⟨_, rfl, rfl, h.headerSeen (.inr (.inr hs)), fun _ => hrows, fun _ => h.insideRow ⟨hs, hm⟩⟩,
    rfl, rfl, rfl, h.pixWf⟩

/-- An operation of DECODE raises, or DECODE goes on where the sequencer's advance leads (R215). -/
theorem exec_decoding_ends {s u : State} {i : Instr} (h : Inv s) (hd : s.st.decoding = true) (hi : fetch s = some i)
    (hu : exec i s = .next u) : FailedFrom s u ∨ DecodeGoesOn s (advance u) := by
  cases hs : s.st <;> simp only [fetch, hs] at hi hd
  case readSignature =>
    cases hi
    refine (execRdSig_ends hu).imp_right fun ⟨hlen, hu⟩ => ?_
    have hadv : advance u = u.goto .readIHDR := by simp [advance, hu, hs]
    rw [hadv, hu]
    exact ⟨⟨_, rfl, rfl, rfl, hlen, h.headerUnseen (.inl hs)⟩, rfl, rfl, rfl, h.pixWf⟩
  case readIHDR =>
    cases hi
    exact (execRdChunk_ends hu).imp_right (ChunkTaken.goesOn h (.inl hs))
  case collectDataChunks =>
    split at hi <;> cases hi
    exact (execRdChunk_ends hu).imp_right (ChunkTaken.goesOn h (.inr hs))
  case inflate =>
    cases hi
    change execZportInflate s = _ at hu
    unfold execZportInflate at hu
    split at hu <;> cases hu
    · exact .inl (raise_failedFrom _ _ _ rfl rfl rfl rfl rfl)
    · simp only [advance, hs]
      exact .inr ⟨⟨_, rfl, rfl, h.headerSeen (.inr (.inl hs)), nofun, nofun⟩, rfl, rfl, rfl, h.pixWf⟩
  case defilterRows =>
    split at hi
    case isFalse => cases hi
    case isTrue hm =>
      split at hi
      · split at hi <;> cases hi
        exact .inr (decodeGoesOn_reconByte h hs hm (exec_reconOf _ s ▸ hu))
      · cases hi
        cases hu
        exact .inl (raise_failedFrom _ _ _ rfl rfl rfl rfl rfl)
  all_goals cases hd

theorem advance_of_failed {s : State} (hs : s.st = .failed) : advance s = s := by
  simp only [advance, hs]

/-- A move of the block while DECODE runs. -/
theorem Inv.blockMove_decoding {s t : State} (h : Inv s) (hd : s.st.decoding = true) (ht : blockMove s = .next t) :
    Inv t := by
  have hc := blockMove_decoding_change hd ht
  rcases blockMove_cases ht with ⟨i, u, hi, hu, rfl⟩ | ⟨-, ht⟩
  · rcases exec_decoding_ends h hd hi hu with hf | hgoes
    · rw [advance_of_failed hf.st]
      exact inv_failed h (running_of_decoding hd) hf
    · exact h.decodeGoesOn hd hc hgoes
  · exact h.innerMove_decoding hd ht

/-! ### ENCODE -/

/-- In `t` the ENCODE of `s` still runs, with the flags, the report and the image's size in the header registers as they
were. -/
structure EncodeGoesOn (s t : State) : Prop where
  encoding : t.st.encoding = true
  status : t.status = s.status
  err : t.err = s.err
  width : t.hdr.w = s.hdr.w
  height : t.hdr.h = s.hdr.h

theorem Inv.encodeGoesOn {s t : State} (h : Inv s) (he : s.st.encoding = true) (hc : EncodeChange s t)
    (g : EncodeGoesOn s t) : Inv t := by
  have hflags := h.runFlags (running_of_encoding he)
  have hopos : t.wr.opos = t.ports.out.length := by
    have hcount := hc.opos.resolve_left (not_ended_of_running (running_of_encoding g.encoding)).2
    have hs := h.oposCounts he
    omega
  obtain ⟨hvalid, hw, hh⟩ := h.encodeHasImage he
  rw [← g.status, ← g.err] at hflags
  rw [← g.width] at hw
  rw [← g.height] at hh
  obtain ⟨hcfg, himg, hpix, hbuild⟩ : t.cfg = s.cfg ∧ t.img = s.img ∧ t.pix = s.pix ∧ t.build = s.build := by
    rw [hc.eq]
    exact ⟨rfl, rfl, rfl, rfl⟩
  rw [← himg] at hw hh
  refine inv_of_running (running_of_encoding g.encoding) hflags (hcfg ▸ h.fctlLegal) (hcfg ▸ h.idatmaxLegal)
    (hpix ▸ h.pixWf) ?image (fun hd => ?decoding) (fun _ => ⟨⟨g.status ▸ hvalid, hw, hh⟩, hopos⟩)
  case image =>
    have himage := h.validImage
    rw [State.ImageWhole, State.imageBytes, g.status, himg, hpix, hbuild]
    exact himage
  case decoding => exact absurd g.encoding (by simp [not_encoding_of_decoding hd])

/-- An operation that writes to `OUT` keeps the invariant, whether the port works or fails (R157). -/
theorem Inv.emission {s : State} {r : Flow} (h : Inv s) (he : s.st.encoding = true) (hc : OperationChange s r.state)
    (hr : (∃ t, r = .ok t ∧ t = { s with crcacc := t.crcacc, rd := t.rd, ports := t.ports, wr := t.wr }) ∨
      ∃ u, r = .raised (raise .writeFailed u) ∧
        u = { s with crcacc := u.crcacc, rd := u.rd, ports := u.ports, wr := u.wr, fresh := u.fresh }) :
    Inv r.state := by
  rcases hr with ⟨t, rfl, heq⟩ | ⟨u, rfl, heq⟩
  · refine h.encodeGoesOn he hc.toEncodeChange ?_
    rw [Flow.state, heq]
    exact ⟨he, rfl, rfl, rfl, rfl⟩
  · refine inv_failed h (running_of_encoding he) (raise_failedFrom _ _ _ ?_ ?_ ?_ ?_ ?_) <;> rw [heq]

theorem Inv.writeChunk {s : State} (h : Inv s) (he : s.st.encoding = true) (type : Word) (payload : List Byte) :
    Inv (writeChunk type payload s).state :=
  h.emission he (writeChunk_change type payload s) <| (writeChunk_cases type payload s).imp
    (fun ⟨t, ht, heq⟩ => ⟨t, ht, by rw [heq]⟩) fun ⟨u, hu, heq⟩ => ⟨u, hu, by rw [heq]⟩

theorem Inv.emitIdatLoop {s : State} (h : Inv s) (he : s.st.encoding = true) (fuel : Nat) :
    Inv (emitIdatLoop fuel s).state :=
  h.emission he (emitIdatLoop_change fuel s) <| (emitLoop_cases fuel s).imp_left
    fun ⟨t, ht, heq, _⟩ => ⟨t, ht, heq⟩

theorem Inv.wrSig {s t : State} (h : Inv s) (he : s.st.encoding = true) (ht : execWrSig s = .next t) : Inv t := by
  have hc := execWrSig_change ht
  unfold execWrSig emitOut at ht
  split at ht <;> cases ht
  · exact inv_failed h (running_of_encoding he) ⟨rfl, kind_code_ne_zero .io, rfl, rfl, rfl, rfl, rfl, rfl, rfl⟩
  · exact h.encodeGoesOn he hc ⟨he, rfl, rfl, rfl, rfl⟩

theorem Inv.emitIhdr {s t : State} (h : Inv s) (he : s.st.encoding = true) (ht : execEmitIhdr s = .next t) : Inv t := by
  obtain ⟨-, hw, hh⟩ := h.encodeHasImage he
  have hheader : Inv { s with hdr := acceptedHeader s.img.width s.img.height } :=
    h.encodeGoesOn he (.of_eq rfl) ⟨he, rfl, rfl, hw.symm, hh.symm⟩
  rw [execEmitIhdr, Flow.result_eq] at ht
  cases ht
  exact hheader.writeChunk he _ _

theorem Inv.emitIdat {s t : State} (h : Inv s) (he : s.st.encoding = true) (ht : execEmitIdat s = .next t) : Inv t := by
  have hstart : Inv { s with wr := { s.wr with zpos := 0 } } := { h with }
  simp only [execEmitIdat, Flow.result_eq] at ht
  split at ht
  · cases ht
    exact hstart.writeChunk he _ _
  split at ht <;> cases ht
  exact hstart.emitIdatLoop he _

/-- An operation of ENCODE keeps the invariant. -/
theorem Inv.exec_encoding {s t : State} {i : Instr} (h : Inv s) (he : s.st.encoding = true) (hi : fetch s = some i)
    (ht : exec i s = .next t) : Inv t := by
  have hc := exec_encoding_change he hi ht
  rcases fetch_encoding he hi with rfl | rfl | rfl | rfl | rfl | ⟨ft, rfl⟩
  · exact h.wrSig he ht
  · exact h.emitIhdr he ht
  · exact h.emitIdat he ht
  · change execEmitIend s = _ at ht
    rw [execEmitIend, Flow.result_eq] at ht
    cases ht
    exact h.writeChunk he _ _
  · change execZportDeflate s = _ at ht
    unfold execZportDeflate at ht
    split at ht <;> cases ht
    · exact inv_failed h (running_of_encoding he) (raise_failedFrom _ _ _ rfl rfl rfl rfl rfl)
    · exact h.encodeGoesOn he hc ⟨he, rfl, rfl, rfl, rfl⟩
  · rw [exec_filtOf] at ht
    obtain ⟨-, v, rfl⟩ := filtByte_cases ft s t ht
    exact h.encodeGoesOn he hc ⟨he, rfl, rfl, rfl, rfl⟩

/-- After an operation of ENCODE the sequencer's advance keeps the invariant (R223). -/
theorem Inv.advance_not_decoding {s : State} (h : Inv s) (hd : s.st.decoding = false) : Inv (advance s) := by
  have goto {st : SeqState} (he : s.st.encoding = true) (he' : st.encoding = true) : Inv (s.goto st) :=
    h.encodeGoesOn he (.of_eq rfl) ⟨he', rfl, rfl, rfl, rfl⟩
  cases hs : s.st <;> simp only [advance, hs] at hd goto ⊢
  case deflate => exact goto rfl rfl
  case emitIHDR =>
    split
    · exact goto rfl rfl
    · exact h.encodeGoesOn (by rw [hs]; rfl) (.of_eq rfl) ⟨rfl, rfl, rfl, rfl, rfl⟩
  case emitIDAT => exact goto rfl rfl
  case emitIEND => exact h.done (by rw [hs]; rfl) rfl rfl rfl rfl rfl rfl h.pixWf h.validImage
  case start => exact h
  case filterRows => exact h
  case done => exact h
  case failed => exact h
  all_goals cases hd

/-- The head of a row, or the end of the row loop (R194). -/
theorem encodeGoesOn_filterRow {s : State} (he : s.st.encoding = true) : EncodeGoesOn s (filterRow s) := by
  unfold filterRow
  split
  · exact ⟨he, rfl, rfl, rfl, rfl⟩
  · exact ⟨rfl, rfl, rfl, rfl, rfl⟩

/-- A move of ENCODE between two operations: the row loop (R194, R195). -/
theorem Inv.innerMove_encoding {s t : State} (h : Inv s) (he : s.st.encoding = true) (ht : innerMove s = .next t) :
    Inv t := by
  refine h.encodeGoesOn he (innerMove_encoding_change he ht) ?_
  cases hs : s.st <;> simp only [innerMove, hs] at ht
  case filterRows =>
    cases hm : s.micro <;> simp only [hm] at ht <;> cases ht
    case row => exact encodeGoesOn_filterRow he
    all_goals exact ⟨he, rfl, rfl, rfl, rfl⟩
  case defilterRows => rw [hs] at he; cases he
  case collectDataChunks => rw [hs] at he; cases he
  all_goals cases ht; exact ⟨he, rfl, rfl, rfl, rfl⟩

/-- A move of the block while ENCODE runs. -/
theorem Inv.blockMove_encoding {s t : State} (h : Inv s) (he : s.st.encoding = true) (ht : blockMove s = .next t) :
    Inv t := by
  rcases blockMove_cases ht with ⟨i, u, hi, hu, rfl⟩ | ⟨-, ht⟩
  · have hinv : Inv u := h.exec_encoding he hi hu
    have hvalid : u.status.pixvalid = true := by
      rw [(exec_encoding_change he hi hu).eq]
      exact (h.encodeHasImage he).1
    refine hinv.advance_not_decoding (Bool.eq_false_iff.2 fun hd => ?_)
    exact absurd (hvalid.symm.trans (hinv.decodeHidesImage hd).2.2) (by decide)
  · exact h.innerMove_encoding he ht

theorem Inv.blockMove {s t : State} (h : Inv s) (ht : blockMove s = .next t) : Inv t := by
  rcases seqState_phases s.st with hidle | hd | he
  · rw [blockMove_idle hidle] at ht
    cases ht
    exact h
  · exact h.blockMove_decoding hd ht
  · exact h.blockMove_encoding he ht

/-! ### The host -/

/-- Between commands the image may change, if it stays whole. -/
theorem Inv.imageChange {s t : State} (h : Inv s) (hb : s.status.busy = false)
    (heq : t = { s with
      status := { s.status with pixvalid := t.status.pixvalid, oor := t.status.oor }
      img := t.img, pix := t.pix, epoch := t.epoch })
    (hpix : Memory.wf t.pix) (himage : t.ImageWhole) : Inv t := by
  have hidle : s.st.running = false := h.busyIffRunning.symm.trans hb
  have hd : ¬ s.st.decoding = true := fun hd => by simp [running_of_decoding hd] at hidle
  have he : ¬ s.st.encoding = true := fun he => by simp [running_of_encoding he] at hidle
  rw [heq] at hpix himage ⊢
  exact { h with
    pixWf := hpix
    validImage := himage
    decodeHidesImage := fun hd' => absurd hd' hd
    encodeHasImage := fun he' => absurd he' he
    rowPosition := fun ⟨hs, _⟩ => absurd (congrArg SeqState.decoding hs) hd }

/-- `PIX.GET` (R201). -/
theorem Inv.pixGet {s t : State} (h : Inv s) (hb : s.status.busy = false) (ht : exec .pixGet s = .next t) : Inv t := by
  cases hr : s.outOfRange with
  | true =>
    rw [exec_pixGet_outOfRange hb hr] at ht
    cases ht
    exact { h with }
  | false =>
    rw [exec_pixGet_inRange hb hr] at ht
    cases ht
    exact { h with }

/-- `PIX.SET`: a valid image keeps every byte it has, and else it becomes valid by being complete (R202, R206). -/
theorem Inv.pixSet {s t : State} (h : Inv s) (hb : s.status.busy = false) (ht : exec .pixSet s = .next t) : Inv t := by
  cases hr : s.outOfRange with
  | true =>
    rw [exec_pixSet_outOfRange hb hr] at ht
    cases ht
    exact { h with }
  | false =>
    rw [exec_pixSet_inRange hb hr] at ht
    cases ht
    have hwf := writeBytes_wf [s.img.pr, s.img.pg, s.img.pb] _ (s.pixelNumber * 3) h.pixWf
    refine h.imageChange hb rfl hwf fun hv => ?_
    rcases Bool.or_eq_true_iff.1 hv with hvalid | hcomplete
    · obtain ⟨hsize, hsome⟩ := h.validImage hvalid
      refine ⟨hsize, fun a ha => (isSome_read_writeBytes _ _ _ _).trans ?_⟩
      rw [hsome a ha, Bool.or_true]
    · exact (imageComplete_iff hwf).1 hcomplete

/-- The acceptance of DECODE (R210), or its refusal. -/
theorem Inv.acceptDecode {s t : State} (h : Inv s) (ht : exec .decode s = .next t) : Inv t := by
  change execDecode s = _ at ht
  unfold execDecode at ht
  split at ht <;> cases ht
  · exact h
  · exact inv_of_running rfl ⟨rfl, rfl, rfl, rfl⟩ h.fctlLegal h.idatmaxLegal .nil nofun
      (fun _ => ⟨⟨rfl, rfl, rfl⟩, rfl, rfl, rfl⟩) nofun

/-- The acceptance of ENCODE (R211, R222), or its refusal. -/
theorem Inv.acceptEncode {s t : State} (h : Inv s) (ht : exec .encode s = .next t) : Inv t := by
  change execEncode s = _ at ht
  unfold execEncode at ht
  split at ht <;> cases ht
  · exact h
  next hfree =>
    obtain ⟨-, hvalid⟩ : s.status.busy = false ∧ s.status.pixvalid = true := by simpa using hfree
    exact inv_of_running rfl ⟨rfl, rfl, rfl, rfl⟩ h.fctlLegal h.idatmaxLegal h.pixWf h.validImage nofun
      (fun _ => ⟨⟨hvalid, rfl, rfl⟩, rfl⟩)

/-- A command between commands (R109). -/
theorem Inv.command {s t : State} (h : Inv s) (hb : s.status.busy = false) {v : Byte}
    (ht : exec (decodeCmd v) s = .next t) : Inv t := by
  unfold decodeCmd at ht
  split_ifs at ht
  · exact h.acceptDecode ht
  · exact h.acceptEncode ht
  · exact h.pixGet hb ht
  · exact h.pixSet hb ht
  · cases ht; exact h

/-- A write to another register between commands: the legal values of R32, and the size, which drops the image (R206). -/
theorem Inv.writeIdle {s : State} (h : Inv s) (hb : s.status.busy = false) (w : RegWrite) : Inv (writeIdle w s) := by
  cases w with
  | cmd v => exact h
  | readOnly r => exact h
  | fctl v =>
    rw [writeIdle_fctl]
    refine { h with fctlLegal := ?_ }
    show (if v.toNat ≤ 5 then v else s.cfg.fctl).toNat ≤ 5
    split
    case isTrue hv => exact hv
    case isFalse => exact h.fctlLegal
  | idatmax v =>
    rw [writeIdle_idatmax]
    refine { h with idatmaxLegal := ?_ }
    show (if v = 0 then s.cfg.idatmax else v) ≠ 0
    split
    case isTrue => exact h.idatmaxLegal
    case isFalse hv => exact hv
  | level v => exact { h with }
  | width v => exact h.imageChange hb rfl .nil nofun
  | height v => exact h.imageChange hb rfl .nil nofun
  | _ => exact { h with }

theorem Inv.hostWrite {s t : State} (h : Inv s) {w : RegWrite} (ht : hostWrite w s = .next t) : Inv t := by
  cases hb : s.status.busy with
  | true =>
    rw [hostWrite_busy hb] at ht
    cases ht
    exact h
  | false =>
    cases w with
    | cmd v => exact h.command hb ht
    | _ =>
      rw [hostWrite_idle (by simp) hb] at ht
      cases ht
      exact h.writeIdle hb _

/-- After a hard reset the machine is at reset but for its ports and its build (R262). -/
theorem inv_hardReset (s : State) : Inv (hardReset s) :=
  { (resetMeetsTheInvariant : Inv State.reset) with
    validImage := nofun
    posInside := fun _ => Nat.zero_le _
    headerSeen := by simp [hardReset, State.reset]
    oposCounts := nofun }

theorem Inv.hostMove {s t : State} (h : Inv s) {m : HostMove} (ht : hostMove m s = .next t) : Inv t := by
  cases m with
  | run => exact h.blockMove ht
  | write w => exact h.hostWrite ht
  | read r =>
    change hostRead r s = _ at ht
    rw [hostRead_eq] at ht
    cases ht
    exact { h with }
  | input bs failAt =>
    change giveInput bs failAt s = _ at ht
    unfold giveInput at ht
    split at ht <;> cases ht
    next hb => exact inv_idle h (by simpa using hb) rfl rfl rfl rfl rfl rfl rfl rfl rfl
  | output failAt =>
    change giveOutput failAt s = _ at ht
    unfold giveOutput at ht
    split at ht <;> cases ht
    next hb => exact inv_idle h (by simpa using hb) rfl rfl rfl rfl rfl rfl rfl rfl rfl
  | reset =>
    cases ht
    exact inv_hardReset s

/-- Settles O53: a step is a move of the host or of the block, and each keeps the invariant; taking a move off the host's list
does not touch it. -/
theorem everyStepKeepsTheInvariant : Obligations.EveryStepKeepsTheInvariant := by
  intro s t h ht
  cases hhost : s.host with
  | nil => exact h.blockMove (step_of_host_nil hhost ▸ ht)
  | cons m rest =>
    have hrest : Inv { s with host := rest } := { h with }
    exact hrest.hostMove (step_of_host_cons hhost ▸ ht)

end Sys2Proof.Machine
end

section
/-! The sequencer (R210 to R225): what the acceptance of a command leaves. -/

namespace Sys2Proof.Machine

/-- Settles O43: each clause is a branch of the acceptance test (R212). -/
theorem acceptanceReinitialises : Obligations.AcceptanceReinitialises := by
  refine ⟨fun s hbusy => ⟨?decodeBusy, ?encodeBusy⟩, fun s himage => ?noImage, fun s hbusy => ?decode,
    fun s hbusy himage => ?encode⟩
  case decodeBusy => rw [exec, execDecode, if_pos hbusy]
  case encodeBusy => rw [exec, execEncode, if_pos (by rw [hbusy]; rfl)]
  case noImage => rw [exec, execEncode, if_pos (by simp [himage])]
  case decode =>
    refine ⟨[], s.epoch + 1, ?_⟩
    rw [exec, execDecode, if_neg (by simp [hbusy])]
    rfl
  case encode =>
    rw [exec, execEncode, if_neg (by simp [hbusy, himage])]
    simp only [himage]
    rfl

end Sys2Proof.Machine
end

section
/-! Runs: where a sequence of the block's steps ends, put together step by step from its end. -/

namespace Sys2Proof.Machine

/-- The run from `s` comes to a state of which `P` holds. -/
def ReachesSome (P : State → Prop) (s : State) : Prop := ∃ n t, stepN n s = .next t ∧ P t

theorem ReachesSome.here {P : State → Prop} {s : State} (h : P s) : ReachesSome P s := ⟨0, s, rfl, h⟩

/-- A run from where the next step leads is one from here. -/
theorem ReachesSome.of_step {P : State → Prop} {s s' : State} (hs : step s = .next s') (h : ReachesSome P s') :
    ReachesSome P s := by
  obtain ⟨n, t, hn, ht⟩ := h
  refine ⟨n + 1, t, ?_, ht⟩
  rw [stepN, hs]
  exact hn

/-- The same with the step as a move of the block. -/
theorem ReachesSome.of_blockMove {P : State → Prop} {s s' : State} (hhost : s.host = []) (hs : blockMove s = .next s')
    (h : ReachesSome P s') : ReachesSome P s :=
  .of_step ((step_of_host_nil hhost).trans hs) h

/-- The same with the move as an operation and the sequencer's advance. -/
theorem ReachesSome.of_exec {P : State → Prop} {s u s' : State} {i : Instr} (hhost : s.host = []) (hi : fetch s = some i)
    (hu : exec i s = .next u) (hadv : advance u = s') (h : ReachesSome P s') : ReachesSome P s :=
  .of_blockMove hhost (by rw [blockMove_of_fetch hi, hu, onNext, hadv]) h

/-- The same with an operation that raises: nothing follows in `Failed` (R225). -/
theorem ReachesSome.of_raise {P : State → Prop} {s u : State} {i : Instr} {c : Cause} (hhost : s.host = [])
    (hi : fetch s = some i) (hu : exec i s = .next (raise c u)) (h : P (raise c u)) : ReachesSome P s :=
  .of_exec hhost hi hu (advance_of_failed (raise_st u c)) (.here h)

/-! ### The sequencer's advance, state by state (R215, R223) -/

section
variable {s : State}

theorem advance_readSignature (h : s.st = .readSignature) : advance s = s.goto .readIHDR := by simp only [advance, h]

theorem advance_readIHDR (h : s.st = .readIHDR) : advance s = s.goto .collectDataChunks := by simp only [advance, h]

theorem advance_collectDataChunks (h : s.st = .collectDataChunks) (hend : s.rd.seenIend = false) : advance s = s := by
  simp [advance, h, hend]

theorem advance_iend (h : s.st = .collectDataChunks) (hend : s.rd.seenIend = true) : advance s = s.goto .inflate := by
  simp only [advance, h, hend, if_true]

theorem advance_inflate (h : s.st = .inflate) : advance s = s.goto .defilterRows := by simp only [advance, h]

theorem advance_defilterRows (h : s.st = .defilterRows) : advance s = s := by simp only [advance, h]

theorem advance_filterRows (h : s.st = .filterRows) : advance s = s := by simp only [advance, h]

theorem advance_deflate (h : s.st = .deflate) : advance s = s.goto .emitIHDR := by simp only [advance, h]

theorem advance_emitSignature (h : s.st = .emitIHDR) (hm : s.micro = .enter) : advance s = { s with micro := .header } := by
  simp [advance, h, hm]

theorem advance_emitHeader (h : s.st = .emitIHDR) (hm : s.micro = .header) : advance s = s.goto .emitIDAT := by
  simp only [advance, h, hm, if_true]

theorem advance_emitIDAT (h : s.st = .emitIDAT) : advance s = s.goto .emitIEND := by simp only [advance, h]

theorem advance_emitIEND (h : s.st = .emitIEND) : advance s = s.finish := by simp only [advance, h]

end

end Sys2Proof.Machine
end

section
/-! The run of DECODE as the function of R226: for each state of the sequencer, from the last one back, the run that starts there
ends with what the rest of the function answers on the registers and buffers as they stand. -/

namespace Sys2Proof.Machine

/-! ### What a run is compared with -/

/-- `t` is a state in which a DECODE has ended with the answer of R226: the image is held, or its report is raised and there
is no image (R221, R240). -/
def DecodeAnswered (answer : Except ErrReport (Word × Word × List Byte)) (t : State) : Prop :=
  t.status.busy = false ∧
    match answer with
    | .ok (w, h, data) => t.st = .done ∧ t.err = noReport ∧ t.holdsImage w h data
    | .error r => t.st = .failed ∧ t.err = r ∧ t.img.width = 0 ∧ t.img.height = 0 ∧ t.status.pixvalid = false

/-- What DECODE leaves as its acceptance made it, until it ends, where the host waits and its port works. -/
structure DecodeSteady (s : State) : Prop where
  host : s.host = []
  inFail : s.ports.inFail = none
  err : s.err = noReport
  width : s.img.width = 0
  height : s.img.height = 0
  pixvalid : s.status.pixvalid = false

/-- An error ends DECODE with its report. -/
theorem DecodeSteady.raised {s : State} (h : DecodeSteady s) (c : Cause) :
    DecodeAnswered (.error (c.report s)) (raise c s) :=
  ⟨rfl, rfl, rfl, h.width, h.height, h.pixvalid⟩

/-- Framing a chunk touches none of it. -/
theorem DecodeSteady.of_readerOnly {s t : State} (h : DecodeSteady s) (ht : ReaderOnly s t) : DecodeSteady t := by
  rw [ht.eq]
  exact { h with }

/-! ### One row -/

/-- `left` depends on the cells before its own only (R171). -/
theorem leftOf_congr {row row' : Nat → Byte} {i : Nat} (h : ∀ k, k < i → row k = row' k) : leftOf row i = leftOf row' i := by
  unfold leftOf
  split
  case isTrue hi => exact h _ (Nat.sub_lt_self (by decide) hi)
  case isFalse => rfl

theorem cellOf_curCells (s : State) {n k : Nat} (hk : k < n) : cellOf (s.curCells n) k = s.curAt k := by
  rw [cellOf, List.getD_eq_getElem?_getD, State.curCells, lineCells_getElem? _ _ hk]
  rfl

theorem cellOf_prevCells (s : State) {n k : Nat} (hk : k < n) : cellOf (s.prevCells n) k = s.prevAt k := by
  rw [cellOf, List.getD_eq_getElem?_getD, State.prevCells, lineCells_getElem? _ _ hk]
  rfl

@[simp] theorem curCells_length (s : State) (n : Nat) : (s.curCells n).length = n := lineCells_length ..

@[simp] theorem prevCells_length (s : State) (n : Nat) : (s.prevCells n).length = n := lineCells_length ..

/-- Writing the next cell makes the row so far longer by it. -/
theorem curCells_setCur_succ (s : State) (i : Nat) (v : Byte) : (s.setCur i v).curCells (i + 1) = s.curCells i ++ [v] := by
  have hcells (u : State) (n : Nat) : u.curCells n = (List.range n).map u.curAt := rfl
  rw [hcells, hcells, List.range_succ, List.map_append, List.map_singleton, curAt_setCur, if_pos rfl]
  congr 1
  refine List.map_congr_left fun k hk => ?_
  rw [curAt_setCur, if_neg (List.mem_range.1 hk).ne]

/-- A row copied is the row above for the next one (R180, R195). -/
theorem prevCells_copyRow (s : State) (n : Nat) : (s.copyRow n).prevCells n = s.curCells n := by
  have hlen : (s.curCells n).length = n := curCells_length s n
  rw [State.prevCells, lineCells_eq_take _ _ _ (by simp [State.copyRow]), State.copyRow, List.take_left' hlen]

/-- Above the first row is the zero row (R179, R194). -/
theorem prevCells_zeroPrev (s : State) (n : Nat) : (s.zeroPrev n).prevCells n = List.replicate n 0 := by
  rw [State.prevCells, lineCells_eq_take _ _ _ (by simp), zeroPrev_prev, List.take_left' (List.length_replicate ..)]

/-- The value that the machine stores is the one that the function appends. -/
theorem reconByte_value (t : FilterType) (s : State) (hi : s.fl.i < s.rowBytes) (filt : Byte) :
    filt + predictor t (leftOf (cellOf (s.curCells s.fl.i)) s.fl.i) (cellOf (s.prevCells s.rowBytes) s.fl.i)
        (leftOf (cellOf (s.prevCells s.rowBytes)) s.fl.i) =
      filt + predictor t (s.left s.fl.i) (s.up s.fl.i) (s.upLeft s.fl.i) := by
  have hleft : leftOf (cellOf (s.curCells s.fl.i)) s.fl.i = s.left s.fl.i :=
    leftOf_congr fun k hk => cellOf_curCells s hk
  have hupLeft : leftOf (cellOf (s.prevCells s.rowBytes)) s.fl.i = s.upLeft s.fl.i :=
    leftOf_congr fun k hk => cellOf_prevCells s (hk.trans hi)
  rw [hleft, hupLeft, cellOf_prevCells s hi]
  rfl

/-- `s` with the row of `CUR` done. -/
def State.rowFilled (s : State) (cur : List Byte) : State := { s with cur := cur, fl := { s.fl with i := s.rowBytes } }

/-- The operations of one row fill `CUR` with the function's row (R172, R179). -/
theorem reachesSome_reconRow {P : State → Prop} {t : FilterType} (k : Nat) {s : State} (hhost : s.host = [])
    (hs : s.st = .defilterRows) (hm : s.micro = .bytes) (hft : FilterType.ofCode s.fl.ft = some t)
    (hk : s.fl.i + k = s.rowBytes) (hf : s.fl.fpos + 1 + s.rowBytes ≤ s.fbuf.length)
    (h : ∀ cur, (s.rowFilled cur).curCells s.rowBytes =
        reconRow t (cellOf (s.prevCells s.rowBytes)) (s.curCells s.fl.i) ((s.fbuf.drop (s.fl.fpos + 1 + s.fl.i)).take k) →
      ReachesSome P (s.rowFilled cur)) : ReachesSome P s := by
  induction k generalizing s with
  | zero =>
    have hi : s.fl.i = s.rowBytes := hk
    have hfilled : s.rowFilled s.cur = s := by rw [State.rowFilled, ← hi]
    have hs := h s.cur
    rw [hfilled] at hs
    exact hs (by rw [← hi]; rfl)
  | succ k ih =>
    have hi : s.fl.i < s.rowBytes := by omega
    have hin : s.fl.fpos + 1 + s.fl.i < s.fbuf.length := by omega
    have hnext := reconByte_next t s _ hi (List.getElem?_eq_getElem hin)
    have hfetch : fetch s = some (reconOf t) := by rw [fetch_defilterRows hs hm hi, decodeRow_of_ofCode hft]
    refine .of_exec hhost hfetch ((exec_reconOf t s).trans hnext) (advance_defilterRows hs) ?_
    refine ih hhost hs hm hft (by show s.fl.i + 1 + k = s.rowBytes; omega) hf fun cur hcur => h cur (hcur.trans ?_)
    rw [List.drop_eq_getElem_cons hin, List.take_succ_cons, reconRow, curCells_length, reconByte_value t s hi,
      ← curCells_setCur_succ]
    rfl

/-! ### The rows -/

/-- `s` at the first byte of a row of type `ft` (R179). -/
def State.rowStarted (s : State) (ft : Byte) : State := { s with fl := { s.fl with ft := ft, i := 0 }, micro := .bytes }

/-- The head of a row (R179). -/
theorem blockMove_rowStarted {s : State} (hst : s.st = .defilterRows) (hm : s.micro = .row)
    (hy : s.fl.y.toNat < s.hdr.h.toNat) (hin : s.fl.fpos < s.fbuf.length) :
    blockMove s = .next (s.rowStarted s.fbuf[s.fl.fpos]) := by
  have hmove : blockMove s = defilterRow s := by simp [blockMove, fetch, innerMove, hst, hm]
  rw [hmove, defilterRow, if_pos hy, List.getElem?_eq_getElem hin]
  rfl

/-- With no row left the block commits (R221). -/
theorem blockMove_commit {s : State} (hst : s.st = .defilterRows) (hm : s.micro = .row)
    (hy : s.hdr.h.toNat ≤ s.fl.y.toNat) : blockMove s = .next s.commit := by
  have hmove : blockMove s = defilterRow s := by simp [blockMove, fetch, innerMove, hst, hm]
  rw [hmove, defilterRow, if_neg hy.not_gt]

/-- The commit makes the rows in the pixel memory the image (R221). -/
theorem DecodeSteady.committed {s : State} {data : List Byte} (hs : DecodeSteady s) (hy : s.fl.y.toNat = s.hdr.h.toNat)
    (hdata : data.length = s.fl.y.toNat * s.rowBytes) (hpix : ∀ a, a < data.length → s.pix.read a = data[a]?) :
    DecodeAnswered (.ok (s.hdr.w, s.hdr.h, data)) s.commit := by
  refine ⟨rfl, rfl, hs.err, rfl, rfl, rfl, ?_, hpix⟩
  rw [hdata, hy, State.rowBytes, Config.bpp]
  ring

/-- `s` at the head of the next row, its row of type `ft` having left `cur` in `CUR` (R180). -/
def State.nextRow (s : State) (ft : Byte) (cur : List Byte) : State := defilterEndRow ((s.rowStarted ft).rowFilled cur)

/-- The row that has ended is the row above for the next one (R180). -/
theorem prevCells_defilterEndRow (s : State) : (defilterEndRow s).prevCells s.rowBytes = s.curCells s.rowBytes :=
  prevCells_copyRow { s with pix := s.pix.writeBytes (s.fl.y.toNat * s.rowBytes) (s.curCells s.rowBytes) } s.rowBytes

/-- It stands in the pixel memory behind the rows above it. -/
theorem nextRow_pix_read {s : State} {done : List Byte} (hdone : done.length = s.fl.y.toNat * s.rowBytes)
    (hpix : ∀ a, a < done.length → s.pix.read a = done[a]?) (ft : Byte) (cur : List Byte) (a : Nat)
    (ha : a < (done ++ (s.nextRow ft cur).prevCells s.rowBytes).length) :
    (s.nextRow ft cur).pix.read a = (done ++ (s.nextRow ft cur).prevCells s.rowBytes)[a]? := by
  have habove : (s.nextRow ft cur).prevCells s.rowBytes = ((s.rowStarted ft).rowFilled cur).curCells s.rowBytes :=
    prevCells_defilterEndRow _
  rw [List.length_append, prevCells_length] at ha
  rw [State.nextRow, defilterEndRow_pix_read, ← State.nextRow, habove]
  show (if s.fl.y.toNat * s.rowBytes ≤ a ∧ a < s.fl.y.toNat * s.rowBytes + s.rowBytes then
    some (((s.rowStarted ft).rowFilled cur).curAt (a - s.fl.y.toNat * s.rowBytes)) else s.pix.read a) = _
  rw [← hdone]
  by_cases hold : a < done.length
  · rw [if_neg (by omega), hpix a hold, List.getElem?_append_left hold]
  · rw [if_pos (by omega), List.getElem?_append_right (not_lt.1 hold), State.curCells, lineCells_getElem? _ _ (by omega)]
    rfl

/-- A row of a legal type: its head, its operations and its end (R179, R180). -/
theorem reachesSome_nextRow {P : State → Prop} {s : State} {t : FilterType} (hhost : s.host = [])
    (hst : s.st = .defilterRows) (hm : s.micro = .row) (hy : s.fl.y.toNat < s.hdr.h.toNat)
    (hin : s.fl.fpos < s.fbuf.length) (hend : s.fl.fpos + 1 + s.rowBytes ≤ s.fbuf.length)
    (hft : FilterType.ofCode s.fbuf[s.fl.fpos] = some t)
    (h : ∀ cur, (s.nextRow s.fbuf[s.fl.fpos] cur).prevCells s.rowBytes =
        reconRow t (cellOf (s.prevCells s.rowBytes)) [] ((s.fbuf.drop (s.fl.fpos + 1)).take s.rowBytes) →
      ReachesSome P (s.nextRow s.fbuf[s.fl.fpos] cur)) : ReachesSome P s := by
  have hlegal : s.fbuf[s.fl.fpos].toNat ≤ 4 := not_lt.1 (mt ofCode_none.2 (by simp [hft]))
  refine .of_blockMove hhost (blockMove_rowStarted hst hm hy hin) ?_
  refine reachesSome_reconRow s.rowBytes hhost hst rfl hft (Nat.zero_add _) hend fun cur hcur => ?_
  exact .of_blockMove hhost (blockMove_defilterEndRow hst rfl hlegal le_rfl)
    (h cur ((prevCells_defilterEndRow _).trans hcur))

/-- The function's turn on a row of a legal type, put through `f` (R179, R226). -/
theorem defilter_legal_map {α : Type} {t : FilterType} {ft : Byte} (hft : FilterType.ofCode ft = some t)
    (n rows fpos : Nat) (above bytes : List Byte) (f : List Byte → α) :
    (defilter n (rows + 1) fpos above (ft :: bytes)).map f =
      (defilter n rows (fpos + 1 + n) (reconRow t (cellOf above) [] (bytes.take n)) (bytes.drop n)).map
        fun data => f (reconRow t (cellOf above) [] (bytes.take n) ++ data) := by
  simp only [defilter, hft]
  cases defilter n rows (fpos + 1 + n) (reconRow t (cellOf above) [] (bytes.take n)) (bytes.drop n) <;> rfl

/-- Rows `Y` and below, with the rows above it, `done`, in the pixel memory (R179, R180, R221). -/
theorem reachesSome_defilter (k : Nat) {s : State} {done : List Byte} (hs : DecodeSteady s) (hst : s.st = .defilterRows)
    (hm : s.micro = .row) (hk : s.fl.y.toNat + k = s.hdr.h.toNat)
    (hlen : s.fbuf.length = s.fl.fpos + k * (1 + s.rowBytes)) (hdone : done.length = s.fl.y.toNat * s.rowBytes)
    (hpix : ∀ a, a < done.length → s.pix.read a = done[a]?) :
    ReachesSome (DecodeAnswered
      ((defilter s.rowBytes k s.fl.fpos (s.prevCells s.rowBytes) (s.fbuf.drop s.fl.fpos)).map
        fun data => (s.hdr.w, s.hdr.h, done ++ data))) s := by
  induction k generalizing s done with
  | zero =>
    refine .of_blockMove hs.host (blockMove_commit hst hm hk.ge) (.here ?_)
    rw [defilter, Except.map, List.append_nil]
    exact hs.committed hk hdone hpix
  | succ k ih =>
    rw [Nat.succ_mul] at hlen
    have hin : s.fl.fpos < s.fbuf.length := by omega
    have hend : s.fl.fpos + 1 + s.rowBytes ≤ s.fbuf.length := by omega
    have hy : s.fl.y.toNat < s.hdr.h.toNat := by omega
    rw [List.drop_eq_getElem_cons hin]
    cases hft : FilterType.ofCode s.fbuf[s.fl.fpos] with
    | none =>
      simp only [defilter, hft]
      refine .of_blockMove hs.host (blockMove_rowStarted hst hm hy hin) ?_
      refine .of_raise hs.host (fetch_rowIllegal (s := s.rowStarted _) hst rfl (ofCode_none.1 hft)) rfl ?_
      exact DecodeSteady.raised { hs with } .badFilterType
    | some t =>
      rw [defilter_legal_map hft]
      refine reachesSome_nextRow hs.host hst hm hy hin hend hft fun cur hrow => ?_
      rw [← hrow, List.drop_drop]
      have hnext : (s.fl.y + 1).toNat = s.fl.y.toNat + 1 := by
        have hrange := s.hdr.h.isLt
        bv_omega
      have hrest := ih (s := s.nextRow s.fbuf[s.fl.fpos] cur)
        (done := done ++ (s.nextRow s.fbuf[s.fl.fpos] cur).prevCells s.rowBytes) { hs with } hst rfl
        (by show (s.fl.y + 1).toNat + k = s.hdr.h.toNat; omega)
        (by show s.fbuf.length = s.fl.fpos + 1 + s.rowBytes + k * (1 + s.rowBytes); omega)
        (by
          show _ = (s.fl.y + 1).toNat * s.rowBytes
          rw [List.length_append, prevCells_length, hnext, Nat.succ_mul, hdone])
        (nextRow_pix_read hdone hpix _ cur)
      simp only [List.append_assoc] at hrest
      exact hrest

/-! ### The F stream and the Z stream -/

/-- What the function makes of an inflated stream (R226). -/
def decodeStream (w h : Word) (f : List Byte) : Except ErrReport (Word × Word × List Byte) :=
  let n := Config.bpp * w.toNat
  if f.length ≠ h.toNat * (1 + n) then .error (failure .fstreamLength typeIDAT f.length)
  else (defilter n h.toNat 0 (List.replicate n 0) f).map fun data => (w, h, data)

theorem decodeImage_of_none {inflate : Inflate} {z : List Byte} (hz : inflate z = none) (w h : Word) :
    decodeImage inflate w h z = .error (failure .inflateFailed typeIDAT 0) := by
  simp only [decodeImage, hz]

theorem decodeImage_of_some {inflate : Inflate} {z f : List Byte} (hz : inflate z = some f) (w h : Word) :
    decodeImage inflate w h z = decodeStream w h f := by
  simp only [decodeImage, hz, decodeStream]
  cases defilter (Config.bpp * w.toNat) h.toNat 0 (List.replicate (Config.bpp * w.toNat) 0) f <;> rfl

/-- `DefilterRows` from its first move (R178, R179). -/
theorem reachesSome_decodeStream {s : State} (hs : DecodeSteady s) (hst : s.st = .defilterRows) (hm : s.micro = .enter) :
    ReachesSome (DecodeAnswered (decodeStream s.hdr.w s.hdr.h s.fbuf)) s := by
  have hstream : decodeStream s.hdr.w s.hdr.h s.fbuf =
      if s.fbuf.length ≠ s.hdr.h.toNat * (1 + s.rowBytes) then .error (Cause.fstreamLength.report s)
      else (defilter s.rowBytes s.hdr.h.toNat 0 (List.replicate s.rowBytes 0) s.fbuf).map
        fun data => (s.hdr.w, s.hdr.h, data) := rfl
  refine .of_blockMove hs.host (blockMove_defilterEnter hst hm) ?_
  rw [hstream, defilterEnter]
  by_cases hlen : s.fbuf.length = s.hdr.h.toNat * (1 + s.rowBytes)
  · rw [if_neg (not_not.2 hlen), if_neg (not_not.2 hlen), ← prevCells_zeroPrev s s.rowBytes]
    exact reachesSome_defilter s.hdr.h.toNat (s := { s.zeroPrev s.rowBytes with
      fl := { s.fl with y := 0, fpos := 0 }, micro := .row }) (done := []) { hs with } hst rfl (Nat.zero_add _)
      (hlen.trans (Nat.zero_add _).symm) (Nat.zero_mul _).symm nofun
  · rw [if_pos hlen, if_pos hlen]
    exact .here (hs.raised .fstreamLength)

/-- `Inflate` and what follows (R161, R219). -/
theorem reachesSome_decodeImage {s : State} (hs : DecodeSteady s) (hst : s.st = .inflate) :
    ReachesSome (DecodeAnswered (decodeImage Config.inflate s.hdr.w s.hdr.h s.zbuf)) s := by
  have hfetch : fetch s = some .zportInflate := by simp only [fetch, hst]
  cases hz : Config.inflate s.zbuf with
  | none =>
    rw [decodeImage_of_none hz]
    refine .of_raise hs.host hfetch (u := s) (c := .inflateFailed) ?_ (hs.raised .inflateFailed)
    simp only [exec, execZportInflate, hz]
  | some f =>
    rw [decodeImage_of_some hz]
    have hexec : exec .zportInflate s = .next { s with fbuf := f } := by simp only [exec, execZportInflate, hz]
    refine .of_exec hs.host hfetch hexec (advance_inflate hst) ?_
    exact reachesSome_decodeStream { hs with } rfl rfl

/-! ### One chunk -/

/-- What the framing answers is what the function `readChunk` answers: the same report, or the chunk with `POS` behind it. -/
def Framed.Answers (s : State) (r : Framed) (answer : Except ErrReport (Word × List Byte × Nat)) : Prop :=
  match answer with
  | .error e => ∃ c u, r = .raised (raise c u) ∧ ReaderOnly s u ∧ c.report u = e
  | .ok (type, payload, next) => r = .ok (delivered type payload s) payload ∧ next = (delivered type payload s).rd.pos ∧
      payload.length < 2 ^ 32

/-- The function takes the checksum over the bytes as they stand, the machine over the type as a number (R133). -/
theorem enc32_type_append_payload {bs : List Byte} {n : Nat} (h : 8 ≤ bs.length) :
    enc32 (be32Of ((bs.drop 4).take 4)) ++ (bs.drop 8).take n = (bs.drop 4).take (4 + n) := by
  have htype : ((bs.drop 4).take 4).length = 4 := by simp; omega
  rw [be32Of_four _ htype, List.take_add, List.drop_drop]

theorem Framed.Answers.ite {s : State} {p : Prop} [Decidable p] {r r' : Framed}
    {a a' : Except ErrReport (Word × List Byte × Nat)} (h : p → r.Answers s a) (h' : ¬ p → r'.Answers s a') :
    (if p then r else r').Answers s (if p then a else a') := by
  split
  case isTrue hp => exact h hp
  case isFalse hp => exact h' hp

theorem Framed.Answers.raised {s u : State} (hu : ReaderOnly s u) (c : Cause) :
    (Framed.raised (raise c u)).Answers s (.error (c.report u)) :=
  ⟨c, u, rfl, hu, rfl⟩

theorem readerOnly_framing (s : State) (len type : Word) : ReaderOnly s (framing len type s) := ⟨rfl, rfl, rfl⟩

theorem readerOnly_framed (s : State) (type crc : Word) (payload : List Byte) : ReaderOnly s (framed type payload crc s) :=
  ⟨rfl, rfl, rfl⟩

/-- The framing and the function test the same in the same order (R132, R133, R142). -/
theorem frameChunk_answers (s : State) (hp : s.ports.inFail = none) :
    (frameChunk s).Answers s (readChunk s.build s.ports.inp s.rd.pos) := by
  rw [frameChunk_chain s hp, readChunk]
  refine .ite (fun _ => .raised (readerOnly_framing ..) .truncLength) fun _ =>
    .ite (fun _ => .raised (readerOnly_framing ..) .lengthOverMax) fun _ =>
    .ite (fun _ => .raised (readerOnly_framing ..) .truncType) fun h8 =>
    .ite (fun _ => .raised (readerOnly_framing ..) .truncPayload) fun hpayload =>
    .ite (fun _ => .raised (readerOnly_framing ..) .truncCrc) fun _ => ?_
  rw [← enc32_type_append_payload (not_lt.1 h8)]
  refine .ite (fun _ => .raised (readerOnly_framed ..) .crcMismatch) fun _ => ?_
  generalize s.ports.inp.drop s.rd.pos = left at hpayload ⊢
  have hlen : ((left.drop 8).take (be32Of (left.take 4)).toNat).length = (be32Of (left.take 4)).toNat := by
    simp only [List.length_take, List.length_drop]
    omega
  refine ⟨rfl, ?next, ?fits⟩
  case next => rw [delivered, hlen]
  case fits => rw [hlen]; exact (be32Of (left.take 4)).isLt

/-- Where the function finds an error in the chunk at `POS`, DECODE ends with it. -/
theorem reachesSome_readChunk_error {s : State} (hs : DecodeSteady s) (hfetch : fetch s = some .rdChunk) {r : ErrReport}
    (hread : readChunk s.build s.ports.inp s.rd.pos = .error r) : ReachesSome (DecodeAnswered (.error r)) s := by
  have hframe := frameChunk_answers s hs.inFail
  rw [hread] at hframe
  obtain ⟨c, u, hframe, hu, rfl⟩ := hframe
  refine .of_raise hs.host hfetch (u := u) (c := c) ?_ ((hs.of_readerOnly hu).raised c)
  rw [exec, execRdChunk_eq_dispatch, hframe, Framed.dispatch]

section
variable {s : State} {type : Word} {payload : List Byte} {next : Nat}

/-- A chunk that the function reads is delivered to the dispatch. -/
theorem exec_rdChunk_of_readChunk (hp : s.ports.inFail = none)
    (hread : readChunk s.build s.ports.inp s.rd.pos = .ok (type, payload, next)) :
    exec .rdChunk s = dispatchChunk payload (delivered type payload s) := by
  have hframe := frameChunk_answers s hp
  rw [hread] at hframe
  rw [exec, execRdChunk_eq_dispatch, hframe.1, Framed.dispatch]

/-- The offset behind it is where `POS` then stands. -/
theorem next_of_readChunk (hp : s.ports.inFail = none)
    (hread : readChunk s.build s.ports.inp s.rd.pos = .ok (type, payload, next)) :
    next = s.rd.pos + 12 + payload.length := by
  have hframe := frameChunk_answers s hp
  rw [hread] at hframe
  exact hframe.2.1

/-- After the header, `RD.CHUNK` by the type of such a chunk (R134, R138 to R140). -/
theorem exec_rdChunk_by_type (hp : s.ports.inFail = none) (hihdr : s.rd.seenIhdr = true)
    (hread : readChunk s.build s.ports.inp s.rd.pos = .ok (type, payload, next)) :
    exec .rdChunk s = .next
      (if type = typeIHDR then raise .dupIhdr (delivered type payload s)
      else if type = typeIDAT then { delivered type payload s with zbuf := s.zbuf ++ payload }
      else if type = typeIEND then
        if payload.length ≠ 0 then raise .iendLength (delivered type payload s)
        else { delivered type payload s with rd := { (delivered type payload s).rd with seenIend := true } }
      else delivered type payload s) := by
  have hframe := frameChunk_answers s hp
  rw [hread] at hframe
  have hempty : (delivered type payload s).rd.len ≠ 0 ↔ payload.length ≠ 0 := by
    rw [← Nat.mod_eq_of_lt hframe.2.2, ne_eq, ne_eq, ← BitVec.toNat_inj]
    rfl
  have hseen : ¬ (delivered type payload s).rd.seenIhdr = false := by simp [delivered, hihdr]
  rw [exec_rdChunk_of_readChunk hp hread, dispatchChunk, if_neg hseen, execChunkIend]
  simp only [hempty, apply_ite Host.Outcome.next]
  rfl

@[simp] theorem delivered_type (s : State) (type : Word) (payload : List Byte) :
    (delivered type payload s).rd.type = type := rfl

@[simp] theorem delivered_build (s : State) (type : Word) (payload : List Byte) :
    (delivered type payload s).build = s.build := rfl

theorem DecodeSteady.delivered (hs : DecodeSteady s) (type : Word) (payload : List Byte) :
    DecodeSteady (Machine.delivered type payload s) := { hs with }

end

/-! ### The chunk loop -/

/-- No chunk starts at the end of the input. -/
theorem readChunk_at_end (b : Build) {inp : List Byte} {p : Nat} (h : inp.length ≤ p) :
    readChunk b inp p = .error (failure .truncLength 0 p) := by
  rw [readChunk, List.drop_eq_nil_of_le h]
  exact if_pos (by decide)

/-- What the function makes of the chunks from offset `p` on (R226). -/
def decodeChunks (s : State) (fuel p : Nat) (z : List Byte) : Except ErrReport (Word × Word × List Byte) :=
  (collectChunks s.build s.ports.inp fuel p z).bind (decodeImage Config.inflate s.hdr.w s.hdr.h)

/-- `CollectDataChunks` and what follows (R217, R218): each chunk takes bytes of the input, so fuel for each byte is enough. -/
theorem reachesSome_decodeChunks (fuel : Nat) {s : State} (hs : DecodeSteady s) (hst : s.st = .collectDataChunks)
    (hihdr : s.rd.seenIhdr = true) (hiend : s.rd.seenIend = false) (hfuel : s.ports.inp.length ≤ s.rd.pos + fuel) :
    ReachesSome (DecodeAnswered (decodeChunks s fuel s.rd.pos s.zbuf)) s := by
  have hfetch : fetch s = some .rdChunk := by simp [fetch, hst, hiend]
  induction fuel generalizing s with
  | zero => exact reachesSome_readChunk_error hs hfetch (readChunk_at_end s.build hfuel)
  | succ fuel ih =>
    cases hread : readChunk s.build s.ports.inp s.rd.pos with
    | error r =>
      simp only [decodeChunks, collectChunks, hread]
      exact reachesSome_readChunk_error hs hfetch hread
    | ok chunk =>
      obtain ⟨type, payload, next⟩ := chunk
      have hdelivered := hs.delivered type payload
      have hexec := exec_rdChunk_by_type hs.inFail hihdr hread
      have goesOn {z : List Byte} (hz : exec .rdChunk s = .next { delivered type payload s with zbuf := z }) :
          ReachesSome (DecodeAnswered (decodeChunks s fuel next z)) s := by
        refine .of_exec hs.host hfetch hz (advance_collectDataChunks hst hiend) ?_
        rw [next_of_readChunk hs.inFail hread]
        exact ih (s := { delivered type payload s with zbuf := z }) { hdelivered with } hst hihdr hiend
          (by show s.ports.inp.length ≤ s.rd.pos + 12 + payload.length + fuel; omega) hfetch
      simp only [decodeChunks, collectChunks, hread]
      by_cases hdup : type = typeIHDR
      · rw [if_pos hdup] at hexec ⊢
        exact .of_raise hs.host hfetch hexec (hdelivered.raised .dupIhdr)
      rw [if_neg hdup] at hexec ⊢
      by_cases hidat : type = typeIDAT
      · rw [if_pos hidat] at hexec ⊢
        exact goesOn hexec
      rw [if_neg hidat] at hexec ⊢
      by_cases hend : type = typeIEND
      · rw [if_pos hend] at hexec ⊢
        by_cases hempty : payload.length ≠ 0
        · rw [if_pos hempty] at hexec ⊢
          exact .of_raise hs.host hfetch hexec (hdelivered.raised .iendLength)
        · rw [if_neg hempty] at hexec ⊢
          refine .of_exec hs.host hfetch hexec (advance_iend hst rfl) ?_
          exact reachesSome_decodeImage { hdelivered with } rfl
      · rw [if_neg hend] at hexec ⊢
        exact goesOn hexec

/-! ### The header chunk and the signature -/

/-- A defect of the header is reported with the type and the offset of its chunk (R137, R232). -/
theorem report_of_headerDefect {b : Build} {h : Header} {c : Cause} (hc : headerDefect b h = some c) (u : State) :
    c.report u = failure c u.rd.type u.rd.chunkoff := by
  unfold headerDefect at hc
  repeat' split at hc
  all_goals cases hc
  all_goals rfl

/-- `CHUNK.IHDR` on the chunk delivered does what the function `parseIHDR` answers: the same report, or the size in the header
registers (R137). -/
def HeaderAnswers (payload : List Byte) (s : State) : Except ErrReport (Word × Word) → Prop
  | .error r => ∃ c u, execChunkIhdr payload (delivered typeIHDR payload s) = .next (raise c u) ∧ DecodeSteady u ∧
      c.report u = r
  | .ok (w, h) => ∃ header : Header, execChunkIhdr payload (delivered typeIHDR payload s) = .next
      { delivered typeIHDR payload s with
        hdr := header, rd := { (delivered typeIHDR payload s).rd with seenIhdr := true } } ∧ header.w = w ∧ header.h = h

theorem execChunkIhdr_answers {s : State} (hs : DecodeSteady s) {payload : List Byte} (hfits : payload.length < 2 ^ 32) :
    HeaderAnswers payload s (parseIhdr s.build s.rd.pos payload) := by
  have hlen : (delivered typeIHDR payload s).rd.len = 13 ↔ payload.length = 13 := by
    rw [← BitVec.toNat_inj]
    show (BitVec.ofNat 32 payload.length).toNat = 13 ↔ _
    rw [BitVec.toNat_ofNat, Nat.mod_eq_of_lt hfits]
  have hdelivered := hs.delivered typeIHDR payload
  cases hheader : headerOf payload with
  | none =>
    have hne : payload.length ≠ 13 := fun h => by
      obtain ⟨header, hh⟩ := headerOf_some h
      rw [hheader] at hh
      cases hh
    simp only [parseIhdr, hheader]
    exact ⟨.ihdrLength, _, by rw [execChunkIhdr, if_pos (mt hlen.1 hne)], hdelivered, rfl⟩
  | some header =>
    have heq : payload.length = 13 := not_not.1 fun h => by
      rw [headerOf_eq_none h] at hheader
      cases hheader
    have hexec := execChunkIhdr_header (hlen.2 heq) hheader
    simp only [parseIhdr, hheader]
    cases hdefect : headerDefect s.build header with
    | some c =>
      rw [delivered_build, hdefect, headerEnd] at hexec
      have hu : DecodeSteady { delivered typeIHDR payload s with hdr := header } := { hs with }
      exact ⟨c, _, hexec, hu, report_of_headerDefect hdefect _⟩
    | none =>
      rw [delivered_build, hdefect, headerEnd] at hexec
      exact ⟨header, hexec, rfl, rfl⟩

/-- Behind the signature the function goes on with the header chunk. -/
theorem decodeFun_of_signature {inp : List Byte} (hsig : inp.take 8 = signature) (inflate : Inflate) (b : Build) :
    decodeFun inflate b inp = (readChunk b inp 8).bind fun (type, payload, next) =>
      if type ≠ typeIHDR then .error (failure .firstNotIhdr type 8)
      else (parseIhdr b 8 payload).bind fun (w, h) =>
        (collectChunks b inp inp.length next []).bind (decodeImage inflate w h) := by
  have hlen := length_of_take_eq_signature hsig
  rw [decodeFun, if_neg (by simp [hsig, hlen])]
  cases readChunk b inp 8 with
  | error r => rfl
  | ok chunk =>
    obtain ⟨type, payload, next⟩ := chunk
    simp only [Except.bind]
    cases parseIhdr b 8 payload with
    | error r => rfl
    | ok size =>
      cases collectChunks b inp inp.length next [] <;> rfl

/-- `ReadIHDR` and what follows (R216, R217). -/
theorem reachesSome_decodeFun_header {s : State} (hs : DecodeSteady s) (hst : s.st = .readIHDR) (hpos : s.rd.pos = 8)
    (hihdr : s.rd.seenIhdr = false) (hiend : s.rd.seenIend = false) (hz : s.zbuf = [])
    (hsig : s.ports.inp.take 8 = signature) :
    ReachesSome (DecodeAnswered (decodeFun Config.inflate s.build s.ports.inp)) s := by
  have hfetch : fetch s = some .rdChunk := by simp only [fetch, hst]
  rw [decodeFun_of_signature hsig, ← hpos]
  cases hread : readChunk s.build s.ports.inp s.rd.pos with
  | error r => exact reachesSome_readChunk_error hs hfetch hread
  | ok chunk =>
    obtain ⟨type, payload, next⟩ := chunk
    have hexec := exec_rdChunk_of_readChunk hs.inFail hread
    rw [dispatchChunk, if_pos (show (delivered type payload s).rd.seenIhdr = false from hihdr), delivered_type] at hexec
    have hframe := frameChunk_answers s hs.inFail
    rw [hread] at hframe
    obtain ⟨-, rfl, hfits⟩ := hframe
    simp only [Except.bind]
    by_cases hfirst : type ≠ typeIHDR
    · rw [if_pos hfirst] at hexec ⊢
      exact .of_raise hs.host hfetch hexec ((hs.delivered type payload).raised .firstNotIhdr)
    obtain rfl : type = typeIHDR := not_not.1 hfirst
    rw [if_neg hfirst] at hexec ⊢
    have hanswer := execChunkIhdr_answers hs hfits
    cases hparse : parseIhdr s.build s.rd.pos payload with
    | error r =>
      rw [hparse] at hanswer
      obtain ⟨c, u, hraise, hu, rfl⟩ := hanswer
      exact .of_raise hs.host hfetch (hexec.trans hraise) (hu.raised c)
    | ok size =>
      obtain ⟨w, h⟩ := size
      rw [hparse] at hanswer
      obtain ⟨header, hend, rfl, rfl⟩ := hanswer
      refine .of_exec hs.host hfetch (hexec.trans hend) (advance_readIHDR hst) ?_
      have hchunks := reachesSome_decodeChunks s.ports.inp.length (s := { delivered typeIHDR payload s with
        hdr := header, rd := { (delivered typeIHDR payload s).rd with seenIhdr := true } }.goto .collectDataChunks)
        { hs with } rfl rfl hiend (Nat.le_add_left _ _)
      rw [decodeChunks, goto_zbuf, show (delivered typeIHDR payload s).zbuf = [] from hz] at hchunks
      exact hchunks

/-- `ReadSignature` and what follows (R131, R216). -/
theorem reachesSome_decodeFun {s : State} (hs : DecodeSteady s) (hst : s.st = .readSignature)
    (hihdr : s.rd.seenIhdr = false) (hiend : s.rd.seenIend = false) (hz : s.zbuf = []) :
    ReachesSome (DecodeAnswered (decodeFun Config.inflate s.build s.ports.inp)) s := by
  have hfetch : fetch s = some .rdSig := by simp only [fetch, hst]
  have hexec := exec_rdSig_eq s hs.inFail
  by_cases hsig : s.ports.inp.take 8 = signature
  · rw [if_pos hsig] at hexec
    exact .of_exec hs.host hfetch hexec (advance_readSignature hst)
      (reachesSome_decodeFun_header { hs with } rfl rfl hihdr hiend hz hsig)
  · rw [if_neg hsig] at hexec
    rw [decodeFun, if_pos (.inr hsig)]
    exact .of_raise hs.host hfetch hexec (DecodeSteady.raised { hs with } .badSignature)

/-- Settles O57: the acceptance leaves the state from which the run follows the function, operation by operation. -/
theorem decodeRunIsTheFunction : Obligations.DecodeRunIsTheFunction := by
  intro s hhost hbusy hport
  obtain ⟨-, -, hdecode, -⟩ := acceptanceReinitialises
  obtain ⟨m, e, haccept⟩ := hdecode s hbusy
  have hrun := reachesSome_decodeFun (s := { s with
    status := { busy := true, done := false, failed := false, pixvalid := false, oor := s.status.oor }
    err := noReport
    img := { s.img with width := 0, height := 0 }
    rd := { s.rd with pos := 0, seenIhdr := false, seenIend := false }
    zbuf := [], fbuf := [], st := .readSignature, micro := .enter, pix := m, epoch := e })
    ⟨hhost, hport, rfl, rfl, rfl, rfl⟩ rfl rfl rfl rfl
  obtain ⟨n, t, hrun, hidle, ht⟩ := hrun
  exact ⟨_, n, t, haccept, hrun, hidle, ht⟩

end Sys2Proof.Machine
end

section
/-! The IDAT chunks of a file (R154): the pieces they carry, as the writer's loop and as the function cut them. -/

namespace Sys2Proof.Machine

/-- The first `k` pieces of `m` bytes of a Z stream, each an IDAT chunk (R154). -/
def dataPieces (m k : Nat) (z : List Byte) : List (Word × List Byte) :=
  (List.range k).map fun j => (typeIDAT, (z.drop (j * m)).take m)

theorem chunksBytes_dataPieces (m k : Nat) (z : List Byte) :
    chunksBytes (dataPieces m k z) = (List.range k).flatMap fun j => chunkBytes typeIDAT ((z.drop (j * m)).take m) := by
  rw [chunksBytes, dataPieces, List.flatMap_map]

/-- The pieces carry the front of the stream. -/
theorem idatPayloads_dataPieces (m k : Nat) (z : List Byte) : idatPayloads (dataPieces m k z) = z.take (k * m) := by
  have hpayloads : idatPayloads (dataPieces m k z) = (List.range k).flatMap fun j => (z.drop (j * m)).take m := by
    simp only [idatPayloads, dataPieces, List.flatMap_map, if_true]
  rw [hpayloads]
  clear hpayloads
  induction k with
  | zero => simp
  | succ k ih => rw [List.range_succ, List.flatMap_append, ih, List.flatMap_singleton, Nat.succ_mul, List.take_add]

theorem idatChunks_nil (m fuel : Nat) : idatChunks m fuel [] = [] := by
  cases fuel <;> rfl

theorem idatChunks_of_ne_nil {z : List Byte} (hz : z ≠ []) (m fuel : Nat) :
    idatChunks m (fuel + 1) z = chunkBytes typeIDAT (z.take m) ++ idatChunks m fuel (z.drop m) := by
  rw [idatChunks, if_neg hz]

theorem chunksBytes_dataPieces_succ (m k : Nat) (z : List Byte) :
    chunksBytes (dataPieces m (k + 1) z) = chunkBytes typeIDAT (z.take m) ++ chunksBytes (dataPieces m k (z.drop m)) := by
  rw [chunksBytes_dataPieces, flatMap_pieces_succ, ← chunksBytes_dataPieces]

/-- A stream of more than `k` and at most `k + 1` times `m` bytes is cut into `k + 1` pieces. -/
theorem idatChunks_eq {m k fuel : Nat} {z : List Byte} (hlow : k * m < z.length) (hhigh : z.length ≤ (k + 1) * m)
    (hfuel : k < fuel) : idatChunks m fuel z = chunksBytes (dataPieces m (k + 1) z) := by
  induction k generalizing fuel z with
  | zero =>
    obtain ⟨fuel, rfl⟩ := Nat.exists_eq_succ_of_ne_zero (Nat.ne_zero_of_lt hfuel)
    have hz : z ≠ [] := List.ne_nil_of_length_pos (Nat.zero_lt_of_lt hlow)
    rw [idatChunks_of_ne_nil hz, chunksBytes_dataPieces_succ, List.drop_eq_nil_of_le (by simpa using hhigh), idatChunks_nil]
    rfl
  | succ k ih =>
    obtain ⟨fuel, rfl⟩ := Nat.exists_eq_succ_of_ne_zero (Nat.ne_zero_of_lt hfuel)
    have hz : z ≠ [] := List.ne_nil_of_length_pos (Nat.zero_lt_of_lt hlow)
    rw [Nat.succ_mul] at hlow hhigh
    rw [idatChunks_of_ne_nil hz, chunksBytes_dataPieces_succ, ih (fuel := fuel)]
    · rw [List.length_drop]; omega
    · rw [List.length_drop]; omega
    · omega

/-- The IDAT chunks of a file: one empty chunk for an empty stream, else its pieces. -/
def dataChunks (m : Nat) (z : List Byte) : List (Word × List Byte) :=
  if z = [] then [(typeIDAT, [])] else dataPieces m ((z.length + m - 1) / m) z

theorem chunksBytes_dataChunks {m : Nat} (hm : 0 < m) (z : List Byte) :
    chunksBytes (dataChunks m z) = if z = [] then chunkBytes typeIDAT [] else idatChunks m z.length z := by
  unfold dataChunks
  split
  case isTrue => rfl
  case isFalse hz =>
    obtain ⟨k, hk, hlow, hhigh⟩ := exists_ceilDiv (List.length_pos_of_ne_nil hz) hm
    rw [hk, idatChunks_eq hlow hhigh ((Nat.le_mul_of_pos_right k hm).trans_lt hlow)]

theorem idatPayloads_dataChunks {m : Nat} (hm : 0 < m) (z : List Byte) : idatPayloads (dataChunks m z) = z := by
  unfold dataChunks
  split
  case isTrue hz => rw [hz]; rfl
  case isFalse hz =>
    obtain ⟨k, hk, -, hhigh⟩ := exists_ceilDiv (List.length_pos_of_ne_nil hz) hm
    rw [hk, idatPayloads_dataPieces, List.take_of_length_le hhigh]

/-- No chunk is longer than `m` bytes. -/
theorem mem_dataChunks {m : Nat} {z : List Byte} {c : Word × List Byte} (hc : c ∈ dataChunks m z) :
    c.1 = typeIDAT ∧ c.2.length ≤ m := by
  unfold dataChunks at hc
  split at hc
  · rw [List.mem_singleton.1 hc]
    exact ⟨rfl, Nat.zero_le _⟩
  · obtain ⟨j, -, rfl⟩ := List.mem_map.1 hc
    exact ⟨rfl, List.length_take_le ..⟩

/-- The file is that of these chunks (R156). -/
theorem pngFile_eq_fileOf {m : Nat} (hm : 0 < m) (w h : Word) (z : List Byte) :
    pngFile w h m z = fileOf w h (dataChunks m z) [] := by
  rw [pngFile, fileOf, chunksBytes_dataChunks hm, List.append_nil]

end Sys2Proof.Machine
end

section
/-! Decoding what was encoded (R227): the file is one given by its chunks, the adapter's law gives the F stream back, and
reconstruction undoes filtering. -/

namespace Sys2Proof.Machine

/-- The encoder's chunks are such as the reader takes (R154, R132). -/
theorem middleChunk_of_mem_dataChunks {b : Build} {m : Nat} (hm : m ≤ b.maxLen.toNat) {z : List Byte}
    {c : Word × List Byte} (hc : c ∈ dataChunks m z) : middleChunk b c := by
  obtain ⟨htype, hlen⟩ := mem_dataChunks hc
  refine ⟨?_, ?_, hlen.trans hm⟩
  · rw [htype]; decide
  · rw [htype]; decide

/-- The F stream of an image decodes to the image (R191). -/
theorem decodeStream_filterImage (fctl : Byte) (w h : Word) {data : List Byte} (hdata : data.length = w.toNat * h.toNat * 3) :
    decodeStream w h
      (filterImage fctl (Config.bpp * w.toNat) h.toNat (List.replicate (Config.bpp * w.toNat) 0) data) = .ok (w, h, data) := by
  obtain ⟨ts, hts, hfilter⟩ :=
    exists_filterImage_eq_filterWith fctl (Config.bpp * w.toNat) h.toNat (List.replicate (Config.bpp * w.toNat) 0) data
  have hrows : data.length = ts.length * (Config.bpp * w.toNat) := by rw [hdata, hts, Config.bpp]; ring
  have hundone := defilter_filterWith (Config.bpp * w.toNat) ts 0 (List.replicate (Config.bpp * w.toNat) 0) data hrows
  have hlen := filterWith_length (Config.bpp * w.toNat) ts (List.replicate (Config.bpp * w.toNat) 0) data
  rw [hts] at hundone hlen
  rw [hfilter, decodeStream, if_neg (not_not.2 hlen), hundone, Except.map]

/-- What the function makes of an F stream (R228): `encode` is this of the filtered image. -/
def encodeStream (deflate : Deflate) (cfg : HostCfg) (w h : Word) (f : List Byte) : Except ErrReport (List Byte) :=
  match deflate f cfg.level with
  | none => .error (failure .deflateFailed typeIDAT 0)
  | some z => .ok (pngFile w h cfg.idatmax.toNat z)

theorem encodeFun_eq (deflate : Deflate) (cfg : HostCfg) (w h : Word) (data : List Byte) :
    encodeFun deflate cfg w h data = encodeStream deflate cfg w h
      (filterImage cfg.fctl (Config.bpp * w.toNat) h.toNat (List.replicate (Config.bpp * w.toNat) 0) data) := rfl

/-- It succeeds only with a file of a Z stream that the adapter answers. -/
theorem encodeStream_ok {deflate : Deflate} {cfg : HostCfg} {w h : Word} {f bytes : List Byte}
    (hb : encodeStream deflate cfg w h f = .ok bytes) :
    ∃ z, deflate f cfg.level = some z ∧ pngFile w h cfg.idatmax.toNat z = bytes := by
  unfold encodeStream at hb
  split at hb <;> cases hb
  exact ⟨_, ‹_›, rfl⟩

/-- Settles O59: the layout does not matter, so the Z stream is inflated, and the F stream it gives decodes to the image. -/
theorem roundTripGivesTheImageBack : Obligations.RoundTripGivesTheImageBack := by
  intro inflate deflate b cfg w h data bytes hlaw hsize hheader hm hmax hdata hencode
  have hpos := toNat_pos_of_ne_zero hm
  obtain ⟨z, hz, rfl⟩ := encodeStream_ok hencode
  calc decodeFun inflate b (pngFile w h cfg.idatmax.toNat z)
      = layoutAnswer inflate b w h z := by
        rw [pngFile_eq_fileOf hpos, decodeFun_fileOf inflate w h (fun c hc => middleChunk_of_mem_dataChunks hmax hc),
          idatPayloads_dataChunks hpos]
    _ = decodeImage inflate w h z := layoutAnswer_accepted inflate hheader hsize z
    _ = .ok (w, h, data) := by
        rw [decodeImage_of_some (hlaw _ _ _ hz), decodeStream_filterImage cfg.fctl w h hdata]

end Sys2Proof.Machine
end

section
/-! The run of ENCODE as the function of R228: for each state of the sequencer, from the last one back, the run that starts there
ends with what the rest of the function answers on the registers and buffers as they stand. -/

namespace Sys2Proof.Machine

/-! ### What a run is compared with -/

/-- `t` is a state in which an ENCODE of an image has ended with the answer of R228, the image still held: the file is in `OUT`,
or the report is raised and nothing has been written (R211, R223, R240). -/
def EncodeAnswered (w h : Word) (data : List Byte) (answer : Except ErrReport (List Byte)) (t : State) : Prop :=
  t.status.busy = false ∧ t.holdsImage w h data ∧
    match answer with
    | .ok bytes => t.st = .done ∧ t.err = noReport ∧ t.ports.out = bytes
    | .error r => t.st = .failed ∧ t.err = r ∧ t.ports.out = []

/-- What ENCODE leaves as its acceptance made it, until it ends, where the host waits and its port works. -/
structure EncodeSteady (w h : Word) (data : List Byte) (s : State) : Prop where
  host : s.host = []
  outFail : s.ports.outFail = none
  idatmax : s.cfg.idatmax ≠ 0
  err : s.err = noReport
  image : s.holdsImage w h data

section
variable {w h : Word} {data : List Byte}

/-! ### The emission -/

/-- `s` with `bytes` appended to `OUT`, and the other registers of the writer as they may be. -/
def State.wrote (s : State) (bytes : List Byte) (crcacc : Word) (rd : Reader) (hdr : Header) (wr : Writer) : State :=
  { s with crcacc := crcacc, rd := rd, hdr := hdr, wr := wr, ports := { s.ports with out := s.ports.out ++ bytes } }

theorem EncodeSteady.wrote {s : State} (hs : EncodeSteady w h data s) (bytes : List Byte) (crcacc : Word) (rd : Reader)
    (hdr : Header) (wr : Writer) : EncodeSteady w h data (s.wrote bytes crcacc rd hdr wr) := { hs with }

/-- The operation `i` completes on `s`, and `bytes` is what it appends to `OUT`. -/
def Writes (i : Instr) (bytes : List Byte) (s : State) : Prop :=
  ∃ crcacc rd hdr wr, exec i s = .next (s.wrote bytes crcacc rd hdr wr)

section
variable {s : State} (hp : s.ports.outFail = none)
include hp

theorem wrSig_writes : Writes .wrSig signature s := by
  obtain ⟨hsig, -⟩ := writerAppendsSignatureAndChunk
  exact ⟨_, _, _, _, hsig s hp⟩

theorem emitIhdr_writes : Writes .emitIhdr (chunkBytes typeIHDR (ihdrPayload s.img.width s.img.height)) s := by
  obtain ⟨hheader, -⟩ := emitHeaderAndEndChunks
  exact ⟨_, _, _, _, hheader s hp⟩

theorem emitIend_writes : Writes .emitIend (chunkBytes typeIEND []) s := by
  obtain ⟨-, htrailer⟩ := emitHeaderAndEndChunks
  obtain ⟨hexec, -⟩ := htrailer s hp
  exact ⟨_, _, _, _, hexec⟩

theorem emitIdat_writes (hm : s.cfg.idatmax ≠ 0) :
    Writes .emitIdat (chunksBytes (dataChunks s.cfg.idatmax.toNat s.zbuf)) s := by
  have hexec := emitDataCutsTheStream s hp hm
  dsimp only at hexec
  unfold dataChunks
  by_cases hz : s.zbuf = []
  · rw [if_pos hz] at hexec ⊢
    exact ⟨_, _, _, _, hexec⟩
  · rw [if_neg hz] at hexec ⊢
    rw [chunksBytes_dataPieces]
    exact ⟨_, _, _, _, hexec⟩

end

/-- The end of ENCODE (R223). -/
theorem EncodeSteady.finished {s : State} (hs : EncodeSteady w h data s) :
    EncodeAnswered w h data (.ok s.ports.out) s.finish :=
  ⟨rfl, hs.image, rfl, hs.err, rfl⟩

theorem reachesSome_emitIEND {s : State} (hs : EncodeSteady w h data s) (hst : s.st = .emitIEND) :
    ReachesSome (EncodeAnswered w h data (.ok (s.ports.out ++ chunkBytes typeIEND []))) s := by
  obtain ⟨crcacc, rd, hdr, wr, hexec⟩ := emitIend_writes hs.outFail
  exact .of_exec hs.host (by simp only [fetch, hst]) hexec (advance_emitIEND hst) (.here (hs.wrote ..).finished)

theorem reachesSome_emitIDAT {s : State} (hs : EncodeSteady w h data s) (hst : s.st = .emitIDAT) :
    ReachesSome (EncodeAnswered w h data
      (.ok (s.ports.out ++ chunksBytes (dataChunks s.cfg.idatmax.toNat s.zbuf) ++ chunkBytes typeIEND []))) s := by
  obtain ⟨crcacc, rd, hdr, wr, hexec⟩ := emitIdat_writes hs.outFail hs.idatmax
  exact .of_exec hs.host (by simp only [fetch, hst]) hexec (advance_emitIDAT hst) (reachesSome_emitIEND { hs with } rfl)

theorem reachesSome_emitHeader {s : State} (hs : EncodeSteady w h data s) (hst : s.st = .emitIHDR) (hm : s.micro = .header) :
    ReachesSome (EncodeAnswered w h data (.ok (s.ports.out ++ chunkBytes typeIHDR (ihdrPayload w h) ++
      chunksBytes (dataChunks s.cfg.idatmax.toNat s.zbuf) ++ chunkBytes typeIEND []))) s := by
  obtain ⟨rfl, rfl, -⟩ := hs.image
  obtain ⟨crcacc, rd, hdr, wr, hexec⟩ := emitIhdr_writes hs.outFail
  exact .of_exec hs.host (by simp only [fetch, hst, hm, if_true]) hexec (advance_emitHeader hst hm)
    (reachesSome_emitIDAT { hs with } rfl)

/-- From `EmitIHDR` on the file is written: the signature and then chunk by chunk (R223, R156). -/
theorem reachesSome_pngFile {s : State} (hs : EncodeSteady w h data s) (hst : s.st = .emitIHDR) (hm : s.micro = .enter)
    (hout : s.ports.out = []) :
    ReachesSome (EncodeAnswered w h data (.ok (pngFile w h s.cfg.idatmax.toNat s.zbuf))) s := by
  obtain ⟨crcacc, rd, hdr, wr, hexec⟩ := wrSig_writes hs.outFail
  have hfile := reachesSome_emitHeader (s := { s.wrote signature crcacc rd hdr wr with micro := .header }) { hs with } hst rfl
  rw [show (s.wrote signature crcacc rd hdr wr).ports.out = signature by rw [State.wrote, hout, List.nil_append]] at hfile
  rw [pngFile, ← chunksBytes_dataChunks (toNat_pos_of_ne_zero hs.idatmax)]
  exact .of_exec hs.host (by simp [fetch, hst, hm]) hexec (advance_emitSignature hst hm) hfile

end

section
variable {w h : Word} {data : List Byte}

/-! ### The Z stream -/

/-- `Deflate` and what follows (R162). -/
theorem reachesSome_encodeStream {s : State} (hs : EncodeSteady w h data s) (hst : s.st = .deflate) (hout : s.ports.out = []) :
    ReachesSome (EncodeAnswered w h data (encodeStream Config.deflate s.cfg w h s.fbuf)) s := by
  have hfetch : fetch s = some .zportDeflate := by simp only [fetch, hst]
  cases hz : Config.deflate s.fbuf s.cfg.level with
  | none =>
    have hexec : exec .zportDeflate s = .next (raise .deflateFailed s) := by simp only [exec, execZportDeflate, hz]
    simp only [encodeStream, hz]
    exact .of_raise hs.host hfetch hexec ⟨rfl, hs.image, rfl, rfl, hout⟩
  | some z =>
    have hexec : exec .zportDeflate s = .next { s with zbuf := z } := by simp only [exec, execZportDeflate, hz]
    simp only [encodeStream, hz]
    exact .of_exec hs.host hfetch hexec (advance_deflate hst) (reachesSome_pngFile { hs with } rfl rfl hout)

/-! ### One row -/

/-- `s` with the row's filtered bytes in `F`. -/
def State.rowEmitted (s : State) (bytes : List Byte) : State :=
  { s with fbuf := s.fbuf ++ bytes, fl := { s.fl with i := s.rowBytes } }

/-- The operations of one row emit its filtered bytes (R194). -/
theorem reachesSome_rowEmitted {P : State → Prop} {t : FilterType} (k : Nat) {s : State} (hhost : s.host = [])
    (hst : s.st = .filterRows) (hm : s.micro = .bytes) (hft : FilterType.ofCode s.fl.ft = some t)
    (hk : s.fl.i + k = s.rowBytes)
    (hrest : ReachesSome P (s.rowEmitted ((List.range' s.fl.i k).map (filteredByte t s.curAt s.prevAt)))) :
    ReachesSome P s := by
  induction k generalizing s with
  | zero =>
    have hemitted : s.rowEmitted [] = s := by rw [State.rowEmitted, List.append_nil, ← hk, Nat.add_zero]
    rwa [List.range'_zero, List.map_nil, hemitted] at hrest
  | succ k ih =>
    have hi : s.fl.i < s.rowBytes := by omega
    have hexec := (exec_filtOf t s).trans (filtByte_next t s hi)
    refine .of_exec hhost (fetch_filterRows hst hm hi hft) hexec (advance_filterRows hst) ?_
    refine ih hhost hst hm hft (by show s.fl.i + 1 + k = s.rowBytes; omega) ?_
    rw [List.range'_succ, List.map_cons, State.rowEmitted, List.append_cons] at hrest
    exact hrest

/-- The filtered byte of the line buffers is that of their rows as lists. -/
theorem filteredByte_cells (t : FilterType) (s : State) {n i : Nat} (hi : i < n) :
    filteredByte t s.curAt s.prevAt i = filteredByte t (cellOf (s.curCells n)) (cellOf (s.prevCells n)) i := by
  have hcur : leftOf (cellOf (s.curCells n)) i = leftOf s.curAt i :=
    leftOf_congr fun k hk => cellOf_curCells s (hk.trans hi)
  have hprev : leftOf (cellOf (s.prevCells n)) i = leftOf s.prevAt i :=
    leftOf_congr fun k hk => cellOf_prevCells s (hk.trans hi)
  rw [filteredByte, filteredByte, hcur, hprev, cellOf_curCells s hi, cellOf_prevCells s hi]

/-- Behind the last byte of a row the block's move is the end of the row (R195). -/
theorem blockMove_filterEndRow {s : State} {t : FilterType} (hst : s.st = .filterRows) (hm : s.micro = .bytes)
    (hft : FilterType.ofCode s.fl.ft = some t) (hi : s.rowBytes ≤ s.fl.i) : blockMove s = .next (filterEndRow s) := by
  simp [blockMove, fetch, innerMove, hst, hm, hft, hi.not_gt]

/-- `s` at the first byte of a row of type `ft` (R194). -/
def State.filterStarted (s : State) (ft : Byte) : State :=
  { s.loadRow with fl := { s.fl with ft := ft, i := 0 }, fbuf := s.fbuf ++ [ft], micro := .bytes }

/-- `s` at the head of the next row, its row of type `ft` having left `bytes` in `F` (R195). -/
def State.nextFilterRow (s : State) (ft : Byte) (bytes : List Byte) : State :=
  filterEndRow ((s.filterStarted ft).rowEmitted bytes)

/-- The row that has ended is the row above for the next one (R195). -/
theorem prevCells_nextFilterRow (s : State) (ft : Byte) (bytes : List Byte) :
    (s.nextFilterRow ft bytes).prevCells s.rowBytes = s.pixBytes (s.fl.y.toNat * s.rowBytes) s.rowBytes :=
  (prevCells_copyRow ((s.filterStarted ft).rowEmitted bytes) s.rowBytes).trans (curCells_loadRow s)

theorem fbuf_nextFilterRow (s : State) (ft : Byte) (bytes : List Byte) :
    (s.nextFilterRow ft bytes).fbuf = s.fbuf ++ ft :: bytes := (List.append_cons ..).symm

/-- The filtered bytes of the row loaded (R97, R194). -/
theorem filterStarted_bytes (s : State) (t : FilterType) :
    (List.range' 0 s.rowBytes).map (filteredByte t (s.filterStarted t.code).curAt (s.filterStarted t.code).prevAt) =
      (List.range s.rowBytes).map (filteredByte t (cellOf (s.pixBytes (s.fl.y.toNat * s.rowBytes) s.rowBytes))
        (cellOf (s.prevCells s.rowBytes))) := by
  rw [← List.range_eq_range', ← curCells_loadRow]
  exact List.map_congr_left fun i hi => filteredByte_cells t (s.filterStarted t.code) (List.mem_range.1 hi)

/-- A row: its head, its operations and its end (R194, R195). -/
theorem reachesSome_nextFilterRow {P : State → Prop} {s : State} {t : FilterType} {row : List Byte} (hhost : s.host = [])
    (hst : s.st = .filterRows) (hm : s.micro = .row) (hy : s.fl.y.toNat < s.hdr.h.toNat)
    (hrow : s.pixBytes (s.fl.y.toNat * s.rowBytes) s.rowBytes = row)
    (ht : fsel s.cfg.fctl row (s.prevCells s.rowBytes) = t)
    (hrest : ReachesSome P (s.nextFilterRow t.code
      ((List.range s.rowBytes).map (filteredByte t (cellOf row) (cellOf (s.prevCells s.rowBytes)))))) :
    ReachesSome P s := by
  subst hrow
  have hhead : filterRow s = s.filterStarted t.code := filterRow_eq hy (by rw [ht])
  refine .of_blockMove hhost ((blockMove_filterRow hst hm).trans (by rw [hhead])) ?_
  refine reachesSome_rowEmitted s.rowBytes hhost hst rfl (ofCode_code t) (Nat.zero_add _) ?_
  refine .of_blockMove hhost (blockMove_filterEndRow hst rfl (ofCode_code t) le_rfl) ?_
  rw [← filterStarted_bytes] at hrest
  exact hrest

/-! ### The rows -/

/-- The bytes of an image that is held are those of the pixel memory (R66). -/
theorem pixBytes_of_holdsImage {s : State} (hs : s.holdsImage w h data) {a n : Nat} (ha : a + n ≤ data.length) :
    s.pixBytes a n = (data.drop a).take n := by
  obtain ⟨-, -, -, -, hread⟩ := hs
  refine List.ext_getElem (by simp; omega) fun j hj hj' => ?_
  have hlt : a + j < data.length := by rw [pixBytes_length] at hj; omega
  simp [State.pixBytes, State.pixByte, hread _ hlt, hlt]

/-- Rows `Y` and below, with the F stream of the rows above them in `F` (R194, R195, R223). -/
theorem reachesSome_filterImage (k : Nat) {s : State} (hs : EncodeSteady w h data s) (hst : s.st = .filterRows)
    (hm : s.micro = .row) (hw : s.hdr.w = w) (hh : s.hdr.h = h) (hk : s.fl.y.toNat + k = s.hdr.h.toNat)
    (hout : s.ports.out = []) :
    ReachesSome (EncodeAnswered w h data (encodeStream Config.deflate s.cfg w h (s.fbuf ++
      filterImage s.cfg.fctl s.rowBytes k (s.prevCells s.rowBytes) (data.drop (s.fl.y.toNat * s.rowBytes))))) s := by
  induction k generalizing s with
  | zero =>
    have hend : filterRow s = s.goto .deflate := if_neg (by omega)
    refine .of_blockMove hs.host ((blockMove_filterRow hst hm).trans (by rw [hend])) ?_
    rw [filterImage, List.append_nil]
    exact reachesSome_encodeStream { hs with } rfl hout
  | succ k ih =>
    have hy : s.fl.y.toNat < s.hdr.h.toNat := by omega
    have hnext : (s.fl.y + 1).toNat = s.fl.y.toNat + 1 := by
      have hrange := s.hdr.h.isLt
      bv_omega
    have hinside : s.fl.y.toNat * s.rowBytes + s.rowBytes ≤ data.length := by
      obtain ⟨-, -, -, hlen, -⟩ := hs.image
      calc s.fl.y.toNat * s.rowBytes + s.rowBytes = (s.fl.y.toNat + 1) * s.rowBytes := (Nat.succ_mul ..).symm
        _ ≤ s.hdr.h.toNat * s.rowBytes := Nat.mul_le_mul_right _ hy
        _ = data.length := by rw [hlen, State.rowBytes, Config.bpp, hw, hh]; ring
    have hrow := pixBytes_of_holdsImage hs.image hinside
    refine reachesSome_nextFilterRow hs.host hst hm hy hrow rfl ?_
    generalize hft : (fsel s.cfg.fctl _ (s.prevCells s.rowBytes)) = t
    generalize hbytes : List.map _ (List.range s.rowBytes) = bytes
    have hrest := ih (s := s.nextFilterRow t.code bytes) { hs with } hst rfl hw hh
      (by show (s.fl.y + 1).toNat + k = s.hdr.h.toNat; omega) hout
    have hfilter : filterImage s.cfg.fctl s.rowBytes (k + 1) (s.prevCells s.rowBytes)
        (data.drop (s.fl.y.toNat * s.rowBytes)) = (t.code :: bytes) ++ filterImage s.cfg.fctl s.rowBytes k
          ((s.nextFilterRow t.code bytes).prevCells s.rowBytes) (data.drop ((s.fl.y + 1).toNat * s.rowBytes)) := by
      rw [filterImage, prevCells_nextFilterRow, hrow, hnext, Nat.succ_mul, ← List.drop_drop, ← hbytes, ← hft]
      rfl
    rw [hfilter, ← List.append_assoc, ← fbuf_nextFilterRow]
    exact hrest

/-- The block's move before the first row (R194). -/
theorem blockMove_filterEnter {s : State} (hst : s.st = .filterRows) (hm : s.micro = .enter) :
    blockMove s = .next (filterEnter s) := by
  simp [blockMove, fetch, innerMove, hst, hm]

/-- ENCODE from its acceptance on (R194, R222). -/
theorem reachesSome_encodeFun {s : State} (hs : EncodeSteady w h data s) (hst : s.st = .filterRows) (hm : s.micro = .enter)
    (hw : s.hdr.w = w) (hh : s.hdr.h = h) (hout : s.ports.out = []) :
    ReachesSome (EncodeAnswered w h data (encodeFun Config.deflate s.cfg w h data)) s := by
  have hrows := reachesSome_filterImage s.hdr.h.toNat (s := filterEnter s) { hs with } hst rfl hw hh (Nat.zero_add _) hout
  have habove : (filterEnter s).prevCells s.rowBytes = List.replicate s.rowBytes 0 := prevCells_zeroPrev s s.rowBytes
  have hall : data.drop ((filterEnter s).fl.y.toNat * s.rowBytes) = data := congrArg data.drop (Nat.zero_mul _)
  rw [show (filterEnter s).rowBytes = s.rowBytes from rfl, habove, hall] at hrows
  rw [encodeFun_eq, ← hw, ← hh]
  rw [← hw, ← hh] at hrows
  exact .of_blockMove hs.host (blockMove_filterEnter hst hm) hrows

end

/-- Settles O58: the acceptance leaves the state from which the run follows the function, operation by operation. -/
theorem encodeRunIsTheFunction : Obligations.EncodeRunIsTheFunction := by
  intro s w h data hhost hbusy hport hidatmax himage
  obtain ⟨hw, hh, hvalid, hlen, hread⟩ := himage
  obtain ⟨-, -, -, hencode⟩ := acceptanceReinitialises
  have hrun := reachesSome_encodeFun (s := { s with
    status := { busy := true, done := false, failed := false, pixvalid := true, oor := s.status.oor }
    err := noReport
    wr := { opos := 0, zpos := 0 }
    fl := { s.fl with fpos := 0 }
    hdr := { s.hdr with w := s.img.width, h := s.img.height }
    zbuf := [], fbuf := [], st := .filterRows, micro := .enter, ports := { s.ports with out := [] } })
    ⟨hhost, hport, hidatmax, rfl, hw, hh, rfl, hlen, hread⟩ rfl rfl hw hh rfl
  obtain ⟨n, t, hrun, hidle, hheld, ht⟩ := hrun
  exact ⟨_, n, t, hencode s hbusy hvalid, hrun, hidle, hheld, ht⟩

end Sys2Proof.Machine
end

section
/-! The sequencer's moves (R212 to R225): the state diagrams, that no move of a state meeting the invariant stops, and that every
command ends, since each move of a running command leaves fewer to make. -/

namespace Sys2Proof.Machine

/-- Settles O44. -/
theorem commitInstallsTheImage : Obligations.CommitInstallsTheImage := by
  intro s hhost hst hm hy
  rw [step_of_host_nil hhost, blockMove_commit hst hm hy]
  rfl

/-! ### The operations -/

/-- What an operation that may raise leaves is the state in which its flow ends. -/
theorem Flow.state_of_result {r : Flow} {u : State} (h : r.result = .next u) : r.state = u := by
  rw [Flow.result_eq] at h
  exact Host.Outcome.next.inj h

/-- An operation of DECODE does not move the sequencer, or it raises. -/
theorem exec_decoding_st {s u : State} {i : Instr} (hd : s.st.decoding = true) (hi : fetch s = some i)
    (hu : exec i s = .next u) : u.st = s.st ∨ u.st = .failed := by
  rcases fetch_decoding hd hi with ⟨rfl, -⟩ | rfl | rfl | ⟨t, rfl⟩ | ⟨ft, rfl⟩
  · rcases execRdSig_ends hu with hf | ⟨-, rfl⟩
    · exact .inr hf.st
    · exact .inl rfl
  · rcases execRdChunk_ends hu with hf | htaken
    · exact .inr hf.st
    · exact .inl (by rw [htaken.eq])
  · change execZportInflate s = _ at hu
    unfold execZportInflate at hu
    split at hu <;> cases hu
    · exact .inr rfl
    · exact .inl rfl
  · obtain ⟨-, v, rfl⟩ := reconByte_cases t s u (exec_reconOf t s ▸ hu)
    exact .inl rfl
  · cases hu
    exact .inr rfl

/-- An operation of ENCODE does not move the sequencer, or it raises. -/
theorem exec_encoding_st {s u : State} {i : Instr} (he : s.st.encoding = true) (hi : fetch s = some i)
    (hu : exec i s = .next u) : u.st = s.st ∨ u.st = .failed := by
  rcases fetch_encoding he hi with rfl | rfl | rfl | rfl | rfl | ⟨t, rfl⟩
  · change execWrSig s = _ at hu
    have hc := (emitOut_change signature s).st
    unfold execWrSig at hu
    cases hr : emitOut signature s <;> rw [hr] at hu hc <;> cases hu <;> exact hc
  · rw [← Flow.state_of_result hu]
    exact (writeChunk_change ..).st
  · change execEmitIdat s = _ at hu
    unfold execEmitIdat at hu
    dsimp only at hu
    split at hu
    · rw [← Flow.state_of_result hu]
      exact (writeChunk_change ..).st
    split at hu
    · cases hu
    · rw [← Flow.state_of_result hu]
      exact (emitIdatLoop_change ..).st
  · rw [← Flow.state_of_result hu]
    exact (writeChunk_change ..).st
  · change execZportDeflate s = _ at hu
    unfold execZportDeflate at hu
    split at hu <;> cases hu
    · exact .inr rfl
    · exact .inl rfl
  · obtain ⟨-, v, rfl⟩ := filtByte_cases t s u (exec_filtOf t s ▸ hu)
    exact .inl rfl

/-- The advance leaves the sequencer where it is or moves it along a diagram (R215, R223). -/
theorem advance_st (s : State) : (advance s).st = s.st ∨ s.st.next? = some (advance s).st := by
  cases hst : s.st <;> simp only [advance, hst]
  case collectDataChunks =>
    cases s.rd.seenIend with
    | true => exact .inr rfl
    | false => exact .inl hst
  case emitIHDR =>
    split
    · exact .inr rfl
    · exact .inl rfl
  case start | defilterRows | filterRows | done | failed => exact .inl trivial
  all_goals exact .inr rfl

/-- An operation is performed only while a command runs. -/
theorem running_of_fetch {s : State} {i : Instr} (hi : fetch s = some i) : s.st.running = true := by
  cases hst : s.st <;> simp [fetch, hst, SeqState.running, SeqState.code] at hi ⊢

/-! ### The row loops -/

/-- What a move inside either row loop does to the loop's position, which is `Y`, `I` and the place in the row (R179, R194). -/
inductive RowMove (s t : State) : Prop
  /-- The start of the loop. -/
  | start (hs : s.micro ≠ .row ∧ s.micro ≠ .bytes) (ht : t.micro = .row)
  /-- The head of a row. -/
  | head (hs : s.micro = .row) (hy : s.fl.y.toNat < s.hdr.h.toNat) (ht : t.micro = .bytes) (hty : t.fl.y = s.fl.y)
      (hhdr : t.hdr = s.hdr)
  /-- One byte of a row. -/
  | byte (hs : s.micro = .bytes) (hi : s.fl.i < s.rowBytes) (ht : t.micro = .bytes)
      (hfl : t.fl = { s.fl with i := s.fl.i + 1 }) (hhdr : t.hdr = s.hdr)
  /-- The end of a row. -/
  | endRow (hs : s.micro = .bytes) (ht : t.micro = .row) (hty : t.fl.y = s.fl.y + 1) (hhdr : t.hdr = s.hdr)

/-- A move of `FilterRows` is one inside its row loop, or ends it (R194, R223). -/
theorem blockMove_filterRows_cases {s t : State} (hst : s.st = .filterRows) (h : blockMove s = .next t) :
    t.st = .deflate ∨ t.st = .filterRows ∧ RowMove s t := by
  cases hm : s.micro
  case row =>
    rw [blockMove_filterRow hst hm] at h
    cases h
    unfold filterRow
    split
    case isTrue hy => exact .inr ⟨hst, .head hm hy rfl rfl rfl⟩
    case isFalse => exact .inl rfl
  case bytes =>
    rcases blockMove_cases h with ⟨i, u, hi, hu, rfl⟩ | ⟨-, h⟩
    · have hrow : ∃ ft, i = filtOf ft := by
        simp only [fetch, hst, hm, if_true] at hi
        split at hi <;> [split at hi; skip] <;> cases hi
        exact ⟨_, rfl⟩
      obtain ⟨ft, rfl⟩ := hrow
      obtain ⟨hlt, v, rfl⟩ := filtByte_cases ft s u (exec_filtOf ft s ▸ hu)
      rw [advance_filterRows (by exact hst)]
      exact .inr ⟨hst, .byte hm hlt hm rfl rfl⟩
    · simp only [innerMove, hst, hm] at h
      cases h
      exact .inr ⟨hst, .endRow hm rfl rfl rfl⟩
  all_goals
    have hmove : blockMove s = .next (filterEnter s) := by simp [blockMove, fetch, innerMove, hst, hm]
    rw [hmove] at h
    cases h
    exact .inr ⟨hst, .start (by simp [hm]) rfl⟩

/-- A move of `DefilterRows` is one inside its row loop, the commit, or raises (R178 to R182, R221). -/
theorem blockMove_defilterRows_cases {s t : State} (hst : s.st = .defilterRows) (h : blockMove s = .next t) :
    t.st = .done ∨ t.st = .failed ∨ t.st = .defilterRows ∧ RowMove s t := by
  cases hm : s.micro
  case row =>
    have hmove : blockMove s = defilterRow s := by simp [blockMove, fetch, innerMove, hst, hm]
    rw [hmove, defilterRow] at h
    split at h
    case isTrue hy =>
      split at h <;> cases h
      exact .inr (.inr ⟨hst, .head hm hy rfl rfl rfl⟩)
    case isFalse =>
      cases h
      exact .inl rfl
  case bytes =>
    rcases blockMove_cases h with ⟨i, u, hi, hu, rfl⟩ | ⟨-, h⟩
    · simp only [fetch, hst, hm, if_true] at hi
      split at hi
      case h_1 ft _ =>
        split at hi <;> cases hi
        obtain ⟨hlt, v, rfl⟩ := reconByte_cases ft s u (exec_reconOf ft s ▸ hu)
        rw [advance_defilterRows (by exact hst)]
        exact .inr (.inr ⟨hst, .byte hm hlt hm rfl rfl⟩)
      case h_2 =>
        cases hi
        cases hu
        exact .inr (.inl rfl)
    · simp only [innerMove, hst, hm] at h
      cases h
      exact .inr (.inr ⟨hst, .endRow hm rfl rfl rfl⟩)
  all_goals
    have hmove : blockMove s = .next (defilterEnter s) := by simp [blockMove, fetch, innerMove, hst, hm]
    rw [hmove, defilterEnter] at h
    split at h <;> cases h
    · exact .inr (.inl rfl)
    · exact .inr (.inr ⟨hst, .start (by simp [hm]) rfl⟩)

/-! ### The state diagrams -/

/-- An operation that the block performs does not move the sequencer, or it raises. -/
theorem exec_fetched_st {s u : State} {i : Instr} (hi : fetch s = some i) (hu : exec i s = .next u) :
    u.st = s.st ∨ u.st = .failed := by
  rcases seqState_phases s.st with hidle | hd | he
  · rw [running_of_fetch hi] at hidle; cases hidle
  · exact exec_decoding_st hd hi hu
  · exact exec_encoding_st he hi hu

/-- A move of the block leads nowhere else, along a diagram, or to `Failed` while a command runs (R215, R223, R225). -/
theorem blockMove_st {s t : State} (h : blockMove s = .next t) :
    t.st = s.st ∨ s.st.next? = some t.st ∨ (s.st.running = true ∧ t.st = .failed) := by
  rcases blockMove_cases h with ⟨i, u, hi, hu, rfl⟩ | ⟨-, hinner⟩
  · rcases exec_fetched_st hi hu with hst | hfailed
    · rw [← hst]
      exact (advance_st u).imp_right .inl
    · rw [advance_of_failed hfailed]
      exact .inr (.inr ⟨running_of_fetch hi, hfailed⟩)
  cases hst : s.st
  case filterRows =>
    rcases blockMove_filterRows_cases hst h with ht | ⟨ht, -⟩ <;> rw [ht]
    · exact .inr (.inl rfl)
    · exact .inl rfl
  case defilterRows =>
    rcases blockMove_defilterRows_cases hst h with ht | ht | ⟨ht, -⟩ <;> rw [ht]
    · exact .inr (.inl rfl)
    · exact .inr (.inr ⟨rfl, rfl⟩)
    · exact .inl rfl
  case collectDataChunks =>
    simp only [innerMove, hst] at hinner
    cases hinner
    exact .inr (.inl rfl)
  all_goals
    simp only [innerMove, hst] at hinner
    cases hinner
    exact .inl hst

/-- Settles O46. -/
theorem statesFollowTheDiagrams : Obligations.StatesFollowTheDiagrams := by
  intro s t hhost h
  rw [step_of_host_nil hhost] at h
  refine ⟨blockMove_st h, fun hidle => ?idle, fun hst => ?filterRows⟩
  case idle =>
    rw [blockMove_idle hidle] at h
    exact (Host.Outcome.next.inj h).symm
  case filterRows => rcases blockMove_filterRows_cases hst h with ht | ⟨ht, -⟩ <;> rw [ht] <;> decide

/-! ### No move stops -/

theorem completes_ite {p : Prop} [Decidable p] {a b : Result} (ha : ∃ t, a = .next t) (hb : ∃ t, b = .next t) :
    ∃ t, (if p then a else b) = .next t := by
  split
  · exact ha
  · exact hb

/-- The payload that framing delivers has the 13 bytes that `LEN` says, so its header fields are there (R137). -/
theorem execChunkIhdr_completes {payload : List Byte} {s : State} (hlen : payload.length = s.rd.len.toNat) :
    ∃ u, execChunkIhdr payload s = .next u := by
  by_cases h13 : s.rd.len = 13
  · obtain ⟨header, hheader⟩ := headerOf_some (hlen.trans (congrArg BitVec.toNat h13))
    exact ⟨_, execChunkIhdr_header h13 hheader⟩
  · exact ⟨_, if_pos h13⟩

theorem dispatchChunk_completes {payload : List Byte} {s : State} (hlen : payload.length = s.rd.len.toNat) :
    ∃ u, dispatchChunk payload s = .next u := by
  have hend : ∃ u, execChunkIend payload s = .next u := completes_ite ⟨_, rfl⟩ ⟨_, rfl⟩
  rw [dispatchChunk_eq, exec_decodeChunk]
  exact completes_ite ⟨_, rfl⟩ <| completes_ite ⟨_, rfl⟩ <| completes_ite (execChunkIhdr_completes hlen) <|
    completes_ite ⟨_, rfl⟩ <| completes_ite hend ⟨_, rfl⟩

theorem execRdChunk_completes (s : State) : ∃ u, execRdChunk s = .next u := by
  rw [execRdChunk_eq_dispatch]
  rcases frameChunk_cases s with ⟨c, v, hf, -⟩ | ⟨v, payload, hf, -, hlen, -⟩
  · exact ⟨_, by rw [hf]; rfl⟩
  · rw [hf]
    exact dispatchChunk_completes hlen

theorem execRdSig_completes (s : State) : ∃ u, execRdSig s = .next u := by
  unfold execRdSig
  refine completes_ite ⟨_, rfl⟩ ?_
  split
  · exact ⟨_, rfl⟩
  · exact completes_ite ⟨_, rfl⟩ ⟨_, rfl⟩

/-- Inside a row the byte read lies inside `F`, whose length the first move has checked (R60, R178). -/
theorem row_inside {s : State} (h : Inv s) (hst : s.st = .defilterRows) (hm : s.micro = .row ∨ s.micro = .bytes)
    (hy : s.fl.y.toNat < s.hdr.h.toNat) : s.fl.fpos + 1 + s.rowBytes ≤ s.fbuf.length := by
  obtain ⟨hlen, -, hfpos, -⟩ := h.rowPosition ⟨hst, hm⟩
  calc s.fl.fpos + 1 + s.rowBytes = (s.fl.y.toNat + 1) * (1 + s.rowBytes) := by rw [hfpos]; ring
    _ ≤ s.hdr.h.toNat * (1 + s.rowBytes) := Nat.mul_le_mul_right _ hy
    _ = s.fbuf.length := hlen.symm

/-- The operations of DECODE complete. -/
theorem exec_decoding_completes {s : State} {i : Instr} (h : Inv s) (hd : s.st.decoding = true) (hi : fetch s = some i) :
    ∃ u, exec i s = .next u := by
  cases hst : s.st <;> simp only [fetch, hst] at hi hd
  case readSignature => cases hi; exact execRdSig_completes s
  case readIHDR => cases hi; exact execRdChunk_completes s
  case collectDataChunks =>
    split at hi <;> cases hi
    exact execRdChunk_completes s
  case inflate =>
    cases hi
    change ∃ u, execZportInflate s = .next u
    unfold execZportInflate
    split <;> exact ⟨_, rfl⟩
  case defilterRows =>
    split at hi
    case isFalse => cases hi
    case isTrue hm =>
      split at hi
      case h_1 t _ =>
        split at hi <;> cases hi
        next hlt =>
          have hinside := row_inside h hst (.inr hm) (h.insideRow ⟨hst, hm⟩)
          have hin : s.fl.fpos + 1 + s.fl.i < s.fbuf.length := by omega
          exact ⟨_, (exec_reconOf t s).trans (reconByte_next t s _ hlt (List.getElem?_eq_getElem hin))⟩
      case h_2 => cases hi; exact ⟨_, rfl⟩
  all_goals cases hd

/-- The operations of ENCODE complete. -/
theorem exec_encoding_completes {s : State} {i : Instr} (h : Inv s) (he : s.st.encoding = true) (hi : fetch s = some i) :
    ∃ u, exec i s = .next u := by
  have flow {r : Flow} : ∃ u, r.result = .next u := ⟨_, r.result_eq⟩
  cases hst : s.st <;> simp only [fetch, hst] at hi he
  case filterRows =>
    split at hi <;> [split at hi <;> [split at hi; skip]; skip] <;> cases hi
    next t _ hlt => exact ⟨_, (exec_filtOf t s).trans (filtByte_next t s hlt)⟩
  case deflate =>
    cases hi
    change ∃ u, execZportDeflate s = .next u
    unfold execZportDeflate
    split <;> exact ⟨_, rfl⟩
  case emitIHDR => split at hi <;> cases hi <;> exact flow
  case emitIDAT =>
    cases hi
    change ∃ u, execEmitIdat s = .next u
    simp only [execEmitIdat, if_neg h.idatmaxLegal]
    split <;> exact flow
  case emitIEND => cases hi; exact flow
  all_goals cases he

/-- The moves between operations complete: the head of a row reads inside `F`. -/
theorem innerMove_completes {s : State} (h : Inv s) : ∃ t, innerMove s = .next t := by
  cases hst : s.st <;> simp only [innerMove, hst]
  case defilterRows =>
    cases hm : s.micro
    case row =>
      by_cases hy : s.fl.y.toNat < s.hdr.h.toNat
      · have hinside := row_inside h hst (.inl hm) hy
        have hin : s.fl.fpos < s.fbuf.length := by omega
        simp only [defilterRow, if_pos hy, List.getElem?_eq_getElem hin]
        exact ⟨_, rfl⟩
      · exact ⟨_, if_neg hy⟩
    all_goals exact ⟨_, rfl⟩
  case filterRows => cases s.micro <;> exact ⟨_, rfl⟩
  all_goals exact ⟨_, rfl⟩

theorem blockMove_completes {s : State} (h : Inv s) : ∃ t, blockMove s = .next t := by
  cases hi : fetch s with
  | none =>
    simp only [blockMove, hi]
    exact innerMove_completes h
  | some i =>
    have hexec : ∃ u, exec i s = .next u := by
      rcases seqState_phases s.st with hidle | hd | he
      · rw [running_of_fetch hi] at hidle; cases hidle
      · exact exec_decoding_completes h hd hi
      · exact exec_encoding_completes h he hi
    obtain ⟨u, hu⟩ := hexec
    exact ⟨advance u, by rw [blockMove_of_fetch hi, hu, onNext]⟩

/-- A command the host writes completes (R109, R212). -/
theorem exec_decodeCmd_completes (v : Byte) (s : State) : ∃ t, exec (decodeCmd v) s = .next t := by
  have accessor {s u v : State} : ∃ t, (if s.status.busy then .next s else if s.outOfRange then .next u else .next v : Result) =
      .next t := completes_ite ⟨_, rfl⟩ (completes_ite ⟨_, rfl⟩ ⟨_, rfl⟩)
  unfold decodeCmd
  split_ifs
  · exact completes_ite ⟨_, rfl⟩ ⟨_, rfl⟩
  · exact completes_ite ⟨_, rfl⟩ ⟨_, rfl⟩
  · exact accessor
  · exact accessor
  · exact ⟨_, rfl⟩

/-- Settles O54: of the host's moves only the two that change a stream can be refused, and the block's moves complete. -/
theorem invariantStepsNeverStop : Obligations.InvariantStepsNeverStop := by
  intro s h
  cases hhost : s.host with
  | nil =>
    rw [step_of_host_nil hhost]
    exact .inl (blockMove_completes h)
  | cons m rest =>
    rw [step_of_host_cons hhost]
    cases m with
    | run =>
      have hrest : Inv { s with host := rest } := { h with }
      exact .inl (blockMove_completes hrest)
    | write w =>
      left
      cases w with
      | cmd v => exact exec_decodeCmd_completes v _
      | _ => exact ⟨_, rfl⟩
    | read r => exact .inl ⟨_, hostRead_eq r _⟩
    | input bs failAt =>
      cases hb : s.status.busy with
      | false => exact .inl ⟨_, if_neg (by simp [hb])⟩
      | true => exact .inr ⟨rfl, rest, .inl ⟨bs, failAt, rfl, giveInput_busy (s := { s with host := rest }) hb bs failAt⟩⟩
    | output failAt =>
      cases hb : s.status.busy with
      | false => exact .inl ⟨_, if_neg (by simp [hb])⟩
      | true => exact .inr ⟨rfl, rest, .inr ⟨failAt, rfl, giveOutput_busy (s := { s with host := rest }) hb failAt⟩⟩
    | reset => exact .inl ⟨_, rfl⟩

/-! ### Every command ends -/

/-- How many states of its diagram a running command has still before it (R215, R223). -/
def SeqState.statesLeft : SeqState → Nat
  | .readSignature | .filterRows => 5
  | .readIHDR | .deflate => 4
  | .collectDataChunks | .emitIHDR => 3
  | .inflate | .emitIDAT => 2
  | .defilterRows | .emitIEND => 1
  | .start | .done | .failed => 0

/-- A row loop has started, or the signature has been written: what comes first in a state is behind. -/
def State.underWay (s : State) : Bool :=
  match s.st with
  | .filterRows | .defilterRows => decide (s.micro = .row ∨ s.micro = .bytes)
  | .emitIHDR => decide (s.micro = .header)
  | _ => false

/-- How many chunks, at most, or rows a loop has still before it; in a row it is not one of them. -/
def State.turnsLeft (s : State) : Nat :=
  if s.st = .collectDataChunks then s.ports.inp.length - s.rd.pos
  else if s.micro = .bytes then s.hdr.h.toNat - (s.fl.y + 1).toNat
  else s.hdr.h.toNat - s.fl.y.toNat

/-- How many moves a row has still before it, its end included. -/
def State.rowLeft (s : State) : Nat := if s.micro = .bytes then 1 + (s.rowBytes - s.fl.i) else 0

/-- What every move of a running command makes less, the states of the diagram first. -/
def State.movesLeft (s : State) : ℕ ×ₗ ℕ ×ₗ ℕ :=
  toLex (2 * s.st.statesLeft + (!s.underWay).toNat, toLex (s.turnsLeft, s.rowLeft))

theorem movesLeft_lt_iff {s t : State} : t.movesLeft < s.movesLeft ↔
    2 * t.st.statesLeft + (!t.underWay).toNat < 2 * s.st.statesLeft + (!s.underWay).toNat ∨
      2 * t.st.statesLeft + (!t.underWay).toNat = 2 * s.st.statesLeft + (!s.underWay).toNat ∧
        (t.turnsLeft < s.turnsLeft ∨ t.turnsLeft = s.turnsLeft ∧ t.rowLeft < s.rowLeft) := by
  rw [State.movesLeft, State.movesLeft, Prod.Lex.toLex_lt_toLex, Prod.Lex.toLex_lt_toLex]

theorem statesLeft_next {st st' : SeqState} (h : st.next? = some st') : st'.statesLeft < st.statesLeft := by
  cases st <;> cases h <;> decide

/-- A move along the diagram leaves less. -/
theorem movesLeft_lt_of_next {s t : State} (h : s.st.next? = some t.st) : t.movesLeft < s.movesLeft := by
  have hstates := statesLeft_next h
  have hflag : (!t.underWay).toNat ≤ 1 := Bool.toNat_le _
  exact movesLeft_lt_iff.2 (.inl (by omega))

/-- Inside one state a move that starts its work, or makes a turn or a move of a turn, leaves less. -/
theorem movesLeft_lt_of_sameState {s t : State} (ht : t.st = s.st)
    (h : s.underWay = false ∧ t.underWay = true ∨ t.underWay = s.underWay ∧
      (t.turnsLeft < s.turnsLeft ∨ t.turnsLeft = s.turnsLeft ∧ t.rowLeft < s.rowLeft)) : t.movesLeft < s.movesLeft := by
  rw [movesLeft_lt_iff, ht]
  rcases h with ⟨hs, ht⟩ | ⟨hflag, hturns⟩
  · rw [hs, ht]
    exact .inl (Nat.lt_succ_self _)
  · rw [hflag]
    exact .inr ⟨rfl, hturns⟩

/-- A move inside a row loop leaves less. -/
theorem movesLeft_lt_of_rowMove {s t : State} (hst : s.st = .filterRows ∨ s.st = .defilterRows) (ht : t.st = s.st)
    (h : RowMove s t) : t.movesLeft < s.movesLeft := by
  have hloop {u : State} (hu : u.st = s.st) :
      u.st ≠ .collectDataChunks ∧ u.underWay = decide (u.micro = .row ∨ u.micro = .bytes) := by
    rcases hst with hst | hst <;> simp [State.underWay, hu, hst]
  obtain ⟨hs2, hsw⟩ := hloop rfl
  obtain ⟨ht2, htw⟩ := hloop ht
  refine movesLeft_lt_of_sameState ht ?_
  rw [hsw, htw]
  cases h with
  | start hsm htm =>
    obtain ⟨hrow, hbytes⟩ := hsm
    exact .inl ⟨by simp [hrow, hbytes], by simp [htm]⟩
  | head hsm hy htm hty hhdr =>
    have hnext : (s.fl.y + 1).toNat = s.fl.y.toNat + 1 := by
      have hrange := s.hdr.h.isLt
      bv_omega
    refine .inr ⟨by simp [hsm, htm], .inl ?_⟩
    simp only [State.turnsLeft, hs2, ht2, hsm, htm, hty, hhdr, hnext, if_true, if_false, reduceCtorEq]
    omega
  | byte hsm hi htm hfl hhdr =>
    have hn : t.rowBytes = s.rowBytes := by rw [State.rowBytes, hhdr]; rfl
    refine .inr ⟨by simp [hsm, htm], .inr ⟨?_, ?_⟩⟩
    · simp only [State.turnsLeft, hs2, ht2, hsm, htm, hfl, hhdr, if_true, if_false]
    · simp only [State.rowLeft, hsm, htm, hfl, hn, if_true]
      omega
  | endRow hsm htm hty hhdr =>
    refine .inr ⟨by simp [hsm, htm], .inr ⟨?_, ?_⟩⟩
    · simp only [State.turnsLeft, hs2, ht2, hsm, htm, hty, hhdr, if_true, if_false, reduceCtorEq]
    · simp only [State.rowLeft, hsm, htm, if_true, if_false, reduceCtorEq]
      omega

/-- `RD.CHUNK` raises, or `POS` moves on (R132). -/
theorem execRdChunk_pos {s u : State} (hst : s.st ≠ .readSignature) (hu : execRdChunk s = .next u) :
    u.st = .failed ∨ s.rd.pos < u.rd.pos := by
  rw [execRdChunk_eq_dispatch] at hu
  rcases frameChunk_cases s with ⟨c, v, hf, -⟩ | ⟨v, payload, hf, hv, -, hpos, -⟩
  · rw [hf] at hu
    cases hu
    exact .inl rfl
  · rw [hf] at hu
    have hle := (dispatchChunk_change hu).pos.resolve_left (by rw [hv.eq]; exact hst)
    exact .inr (by omega)

/-- `EMIT.IHDR` raises, or leaves the block where it is in `EmitIHDR`. -/
theorem execEmitIhdr_micro {s u : State} (hu : execEmitIhdr s = .next u) : u.st = .failed ∨ u.micro = s.micro := by
  change (writeChunk typeIHDR (ihdrPayload s.img.width s.img.height)
    { s with hdr := acceptedHeader s.img.width s.img.height }).result = _ at hu
  rw [← Flow.state_of_result hu]
  rcases writeChunk_cases typeIHDR (ihdrPayload s.img.width s.img.height)
    { s with hdr := acceptedHeader s.img.width s.img.height } with ⟨v, hv, heq⟩ | ⟨v, hv, -⟩ <;> rw [hv]
  · rw [Flow.state, heq]
    exact .inr rfl
  · exact .inl rfl

/-- Where the advance does not move the sequencer (R215, R223). -/
theorem advance_stays {u : State} (h : (advance u).st = u.st) : u.st.running = false ∨ u.st = .collectDataChunks ∨
    (u.st = .filterRows ∨ u.st = .defilterRows) ∨ (u.st = .emitIHDR ∧ u.micro ≠ .header) := by
  cases hst : u.st <;> simp only [advance, hst] at h
  case start | done | failed => exact .inl rfl
  case collectDataChunks => exact .inr (.inl rfl)
  case filterRows => exact .inr (.inr (.inl (.inl rfl)))
  case defilterRows => exact .inr (.inr (.inl (.inr rfl)))
  case emitIHDR =>
    refine .inr (.inr (.inr ⟨rfl, fun hm => ?_⟩))
    rw [if_pos hm] at h
    cases h
  all_goals cases h

/-- A move that stays in a row loop leaves less. -/
theorem movesLeft_lt_of_rows {s t : State} (hst : s.st = .filterRows ∨ s.st = .defilterRows) (hmove : blockMove s = .next t)
    (ht : t.st = s.st) : t.movesLeft < s.movesLeft := by
  refine movesLeft_lt_of_rowMove hst ht ?_
  rcases hst with hst | hst <;> rw [hst] at ht
  · rcases blockMove_filterRows_cases hst hmove with ht' | ⟨-, hrow⟩
    · rw [ht'] at ht; cases ht
    · exact hrow
  · rcases blockMove_defilterRows_cases hst hmove with ht' | ht' | ⟨-, hrow⟩
    · rw [ht'] at ht; cases ht
    · rw [ht'] at ht; cases ht
    · exact hrow

/-- A chunk taken leaves fewer bytes of the input, if the chunk loop goes on. -/
theorem movesLeft_lt_of_chunk {s u : State} (hst : s.st = .collectDataChunks) (hu : execRdChunk s = .next u)
    (ht : (advance u).st = s.st) : (advance u).movesLeft < s.movesLeft := by
  rcases execRdChunk_ends hu with hfailed | htaken
  · rw [advance_of_failed hfailed.st, hfailed.st, hst] at ht
    cases ht
  have hpos : s.rd.pos < u.rd.pos := (execRdChunk_pos (by simp [hst]) hu).resolve_left fun hf => by
    rw [advance_of_failed hf, hf, hst] at ht
    cases ht
  have hle := htaken.pos
  have hinp : u.ports.inp = s.ports.inp := by rw [htaken.eq]
  rw [hinp] at hle
  refine movesLeft_lt_of_sameState ht (.inr ⟨?_, .inl ?_⟩)
  · simp only [State.underWay, ht, hst]
  · rw [State.turnsLeft, if_pos (ht.trans hst), State.turnsLeft, if_pos hst, advance_eq u]
    show u.ports.inp.length - u.rd.pos < s.ports.inp.length - s.rd.pos
    rw [hinp]
    omega

/-- The signature written leaves less. -/
theorem movesLeft_lt_of_signature {s u : State} {i : Instr} (hi : fetch s = some i) (hu : exec i s = .next u)
    (hst : s.st = .emitIHDR) (hust : u.st = .emitIHDR) (hm : u.micro ≠ .header) :
    (advance u).movesLeft < s.movesLeft := by
  have hadv : advance u = { u with micro := .header } := by simp only [advance, hust, if_neg hm]
  have hsm : s.micro ≠ .header := fun hsm => by
    simp only [fetch, hst, hsm, if_true] at hi
    cases hi
    rcases execEmitIhdr_micro hu with hf | hkept
    · rw [hust] at hf; cases hf
    · exact hm (hkept.trans hsm)
  rw [hadv]
  refine movesLeft_lt_of_sameState (hust.trans hst.symm) (.inl ⟨?_, ?_⟩)
  · simp [State.underWay, hst, hsm]
  · simp [State.underWay, hust]

/-- Outside the row loops a running command has an operation to perform, but at the exit of the chunk loop (R218). -/
theorem chunks_of_fetch_none {s : State} (hrun : s.st.running = true) (hrows : ¬ (s.st = .filterRows ∨ s.st = .defilterRows))
    (hn : fetch s = none) : s.st = .collectDataChunks := by
  cases hst : s.st <;> simp only [fetch, hst] at hn hrun hrows
  case collectDataChunks => rfl
  case filterRows => exact absurd (.inl trivial) hrows
  case defilterRows => exact absurd (.inr trivial) hrows
  case emitIHDR => split at hn <;> cases hn
  case start | done | failed => cases hrun
  all_goals cases hn

/-- A move that stays in its state is a chunk taken, the signature written, or a move inside a row loop, and leaves less. -/
theorem movesLeft_lt_of_stays {s t : State} (hrun : s.st.running = true) (hmove : blockMove s = .next t)
    (ht : t.st = s.st) : t.movesLeft < s.movesLeft := by
  by_cases hrows : s.st = .filterRows ∨ s.st = .defilterRows
  · exact movesLeft_lt_of_rows hrows hmove ht
  rcases blockMove_cases hmove with ⟨i, u, hi, hu, rfl⟩ | ⟨hn, hinner⟩
  · have hust : u.st = s.st := (exec_fetched_st hi hu).resolve_right fun hf => by
      rw [advance_of_failed hf, hf] at ht
      rw [← ht] at hrun
      cases hrun
    rcases advance_stays (ht.trans hust.symm) with hidle | hchunk | hrows' | ⟨hsig, hm⟩
    · rw [hust, hrun] at hidle; cases hidle
    · rw [hust] at hchunk
      have hrd : i = .rdChunk := by
        simp only [fetch, hchunk] at hi
        split at hi <;> cases hi
        rfl
      subst hrd
      exact movesLeft_lt_of_chunk hchunk hu ht
    · exact absurd (hust ▸ hrows') hrows
    · exact movesLeft_lt_of_signature hi hu (hust.symm.trans hsig) hsig hm
  · have hst := chunks_of_fetch_none hrun hrows hn
    simp only [innerMove, hst] at hinner
    cases hinner
    rw [hst] at ht
    cases ht

/-- Every move of a running command that does not end it leaves less. -/
theorem movesLeft_lt {s t : State} (hrun : s.st.running = true) (hmove : blockMove s = .next t)
    (ht : t.st.running = true) : t.movesLeft < s.movesLeft := by
  rcases blockMove_st hmove with hsame | hnext | ⟨-, hfailed⟩
  · exact movesLeft_lt_of_stays hrun hmove hsame
  · exact movesLeft_lt_of_next hnext
  · rw [hfailed] at ht; cases ht

theorem next_ne_start (st : SeqState) : st.next? ≠ some .start := by
  cases st <;> decide

/-- Settles O56: a move of a running command goes on, ends it or leaves less, by induction on what is left. -/
theorem everyCommandEnds : Obligations.EveryCommandEnds := by
  intro s h hhost hbusy
  show ReachesSome (fun t => t.ended ∧ t.status.busy = false) s
  induction hleft : s.movesLeft using WellFoundedLT.induction generalizing s with
  | ind left ih =>
    have hrun : s.st.running = true := h.busyIffRunning.symm.trans hbusy
    obtain ⟨t, hmove⟩ := blockMove_completes h
    refine .of_blockMove hhost hmove ?_
    have hinv : Inv t := h.blockMove hmove
    cases hb : t.status.busy with
    | false =>
      refine .here ⟨(idle_not hinv hb).resolve_left fun hstart => ?_, hb⟩
      rcases blockMove_st hmove with hsame | hnext | ⟨-, hfailed⟩
      · rw [← hsame, hstart] at hrun; cases hrun
      · exact next_ne_start s.st (hstart ▸ hnext)
      · rw [hfailed] at hstart; cases hstart
    | true =>
      have hlt := movesLeft_lt hrun hmove (hinv.busyIffRunning.symm.trans hb)
      have hhost' : t.host = [] := (blockStepsKeepTheHostsState s t hhost ((step_of_host_nil hhost).trans hmove)).1
      exact ih _ (hleft ▸ hlt) t hinv hhost' hb rfl

end Sys2Proof.Machine
end

section
/-! An input port that fails inside a read (R237): the framing stage by stage, each with the failure inside its field or behind
it. -/

namespace Sys2Proof.Machine

section
variable {s : State} {k : Nat} {L T : Word}

/-- A read that begins at or before the offset `k` at which the port fails answers exactly if it ends there (R237). -/
theorem inRead_failing (hk : s.ports.inFail = some k) {p : Nat} (hlow : p ≤ k) (n : Nat) :
    s.inRead p n = if k < p + n then none else some ((s.ports.inp.drop p).take n) := by
  simp [State.inRead, portFails, hk, hlow]

/-- The length field of the framing, with the failure inside it or behind it. -/
theorem frameChunk_failing (hk : s.ports.inFail = some k) (havail : ¬ s.inAvail s.rd.pos < 4) (hlow : s.rd.pos ≤ k)
    (hL : be32Of ((s.ports.inp.drop s.rd.pos).take 4) = L) (hmax : L.toNat ≤ s.build.maxLen.toNat) :
    frameChunk s =
      if k < s.rd.pos + 4 then .raised (raise .readFailed (framing 0 0 s)) else frameType s.rd.pos (framing L 0 s) := by
  have hread := inRead_failing hk hlow 4
  simp only [frameChunk, inAvail_of_rd, inRead_of_rd, if_neg havail, hread]
  by_cases hfield : k < s.rd.pos + 4
  · simp only [if_pos hfield]
    rfl
  · simp only [if_neg hfield, hL]
    exact if_neg hmax.not_gt

/-- The type field, likewise. -/
theorem frameType_failing (hk : s.ports.inFail = some k) (havail : ¬ s.inAvail (s.rd.pos + 4) < 4)
    (hlow : s.rd.pos + 4 ≤ k) (hT : be32Of ((s.ports.inp.drop (s.rd.pos + 4)).take 4) = T) :
    frameType s.rd.pos (framing L 0 s) =
      if k < s.rd.pos + 8 then .raised (raise .readFailed (framing L 0 s))
      else framePayload s.rd.pos (framing L T s) := by
  have hread := inRead_failing hk hlow 4
  simp only [frameType, framing, inAvail_of_rd, inRead_of_rd, if_neg havail, hread]
  by_cases hfield : k < s.rd.pos + 8
  · simp only [if_pos hfield]
  · simp only [if_neg hfield, hT]

/-- The payload, likewise. -/
theorem framePayload_failing (hk : s.ports.inFail = some k) (havail : ¬ s.inAvail (s.rd.pos + 8) < L.toNat)
    (hlow : s.rd.pos + 8 ≤ k) :
    framePayload s.rd.pos (framing L T s) =
      if k < s.rd.pos + 8 + L.toNat then .raised (raise .readFailed (framing L T s))
      else frameCrc s.rd.pos ((s.ports.inp.drop (s.rd.pos + 8)).take L.toNat) (framing L T s) := by
  have hread := inRead_failing hk hlow L.toNat
  simp only [framePayload, framing, inAvail_of_rd, inRead_of_rd, if_neg havail, hread]
  by_cases hfield : k < s.rd.pos + 8 + L.toNat
  · simp only [if_pos hfield]
  · simp only [if_neg hfield]

/-- The CRC field, with the failure inside it. -/
theorem frameCrc_failing (hk : s.ports.inFail = some k) (havail : ¬ s.inAvail (s.rd.pos + 8 + L.toNat) < 4)
    (hlow : s.rd.pos + 8 + L.toNat ≤ k) (hhigh : k < s.rd.pos + 12 + L.toNat) (payload : List Byte) :
    frameCrc s.rd.pos payload (framing L T s) = .raised (raise .readFailed (framing L T s)) := by
  have hread : s.inRead (s.rd.pos + 8 + L.toNat) 4 = none := by
    rw [inRead_failing hk hlow, if_pos (by omega)]
  simp only [frameCrc, framing, inAvail_of_rd, inRead_of_rd, if_neg havail, hread]

/-- Framing a chunk that is all there, by a port that fails inside it: the error is raised in the field where the failure
lies, with the registers as far as they have been read (R132, R237). -/
theorem frameChunk_failing_inside {crc : Word} {payload rest : List Byte} (hk : s.ports.inFail = some k)
    (hL : L.toNat = payload.length) (hmax : L.toNat ≤ s.build.maxLen.toNat)
    (hin : s.ports.inp.drop s.rd.pos = enc32 L ++ enc32 T ++ payload ++ enc32 crc ++ rest)
    (hlow : s.rd.pos ≤ k) (hhigh : k < s.rd.pos + 12 + L.toNat) :
    frameChunk s =
      if k < s.rd.pos + 4 then .raised (raise .readFailed (framing 0 0 s))
      else if k < s.rd.pos + 8 then .raised (raise .readFailed (framing L 0 s))
      else .raised (raise .readFailed (framing L T s)) := by
  obtain ⟨hlen, hlength, htype, -⟩ := chunk_parts L T crc payload rest hL
  rw [← hin] at hlen hlength htype
  rw [List.length_drop] at hlen
  rw [List.drop_drop] at htype
  have avail {p n : Nat} (hp : p + n ≤ s.rd.pos + 12 + L.toNat) : ¬ s.inAvail p < n := by
    rw [State.inAvail]
    omega
  rw [frameChunk_failing hk (avail (by omega)) hlow hlength hmax]
  refine ite_congr rfl (fun _ => rfl) fun h4 => ?_
  rw [frameType_failing hk (avail (by omega)) (not_lt.1 h4) htype]
  refine ite_congr rfl (fun _ => rfl) fun h8 => ?_
  rw [framePayload_failing hk (avail (by omega)) (not_lt.1 h8)]
  split
  · rfl
  next hp => exact frameCrc_failing hk (avail (by omega)) (not_lt.1 hp) hhigh _

end

/-- The eight bytes of the signature, with the failure inside them (R131). -/
theorem execRdSig_failing {s : State} {k : Nat} (hk : s.ports.inFail = some k) (hinside : k < 8)
    (havail : 8 ≤ s.ports.inp.length) :
    execRdSig s = .next (raise .readFailed { s with rd := { s.rd with chunkoff := 0, type := 0 } }) := by
  have hread := inRead_failing hk (Nat.zero_le k) 8
  rw [if_pos (by omega)] at hread
  have hlong : ¬ s.inAvail 0 < 8 := havail.not_gt
  simp only [execRdSig, inAvail_of_rd, inRead_of_rd, if_neg hlong, hread]

/-- Settles O17: the failure is in the signature, or in one of the four fields of the chunk, of which the last two are read
with the type known. -/
theorem failingReadRaisesIoError : Obligations.FailingReadRaisesIoError := by
  refine ⟨fun s k hk hinside havail => execRdSig_failing hk hinside havail,
    fun s k type crc payload rest hk hl hin hlow hhigh => ?chunk⟩
  have hn := toNat_ofNat_of_le_maxLen hl
  refine (execRdChunk_eq_dispatch s).trans ?_
  rw [frameChunk_failing_inside hk hn (hn.trans_le hl) hin hlow (hn.symm ▸ hhigh)]
  simp only [apply_ite Framed.dispatch, apply_ite Host.Outcome.next]
  rfl

end Sys2Proof.Machine
end

section
/-! What a step into `Failed` leaves (R236, R240): every operation that raises does so by `raise`, so the report is that of a
cause, and a DECODE that fails leaves no image (R241). -/

namespace Sys2Proof.Machine

/-! ### The table of causes (R231, R232) -/

theorem ErrKind.code_bounds (k : ErrKind) : 1 ≤ k.code.toNat ∧ k.code.toNat ≤ 5 := by cases k <;> decide

theorem ErrKind.code_eq_three_iff (k : ErrKind) : k.code = 3 ↔ k = .checksum := by cases k <;> decide

theorem Cause.code_pos (c : Cause) : 1 ≤ c.code.toNat := by cases c <;> decide

theorem Cause.kind_eq_checksum_iff (c : Cause) : c.kind = .checksum ↔ c = .crcMismatch := by cases c <;> decide

/-- The tests of the header raise no checksum error (R137). -/
theorem headerDefect_ne_crcMismatch {b : Build} {h : Header} {c : Cause} (hc : headerDefect b h = some c) :
    c ≠ .crcMismatch := by
  rintro rfl
  unfold headerDefect at hc
  split_ifs at hc <;> cases hc

/-! ### What an exception leaves -/

/-- The report of `t` is that of the cause `c`, as far as it does not depend on where the error was raised: a checksum error
reports the checksums that the registers hold, and they differ (R236). -/
structure ReportOf (c : Cause) (t : State) : Prop where
  kind : t.err.kind = c.kind.code
  cause : t.err.cause = c.code
  stored : t.err.crcStored = if c = .crcMismatch then t.rd.crcrx else 0
  computed : t.err.crcComputed = if c = .crcMismatch then crcComplement t.crcacc else 0
  differ : c = .crcMismatch → t.rd.crcrx ≠ crcComplement t.crcacc

/-- `t` is what an exception makes of `s` (R240). -/
structure Raised (s t : State) : Prop where
  failed : FailedFrom s t
  report : ∃ c, ReportOf c t

theorem reportOf_raise {c : Cause} {s : State} (hc : c = .crcMismatch → s.rd.crcrx ≠ crcComplement s.crcacc) :
    ReportOf c (raise c s) := by
  refine ⟨rfl, rfl, ?_, ?_, hc⟩ <;> simp only [raise_err, Cause.report, Cause.kind_eq_checksum_iff] <;> rfl

/-- Taking an exception for any cause but the mismatch of the checksums. -/
theorem raise_raised {c : Cause} (hc : c ≠ .crcMismatch) (s : State) : Raised s (raise c s) :=
  ⟨raise_failedFrom c s s rfl rfl rfl rfl rfl, c, reportOf_raise fun h => absurd h hc⟩

/-- The same image, flags and configuration before the exception. -/
theorem Raised.of_same {s u t : State} (h : Raised u t) (hstatus : u.status = s.status) (himg : u.img = s.img)
    (hpix : u.pix = s.pix) (hcfg : u.cfg = s.cfg) (hbuild : u.build = s.build) : Raised s t := by
  obtain ⟨⟨hst, hkind, hz, hf, hstatus', himg', hpix', hcfg', hbuild'⟩, hreport⟩ := h
  rw [hstatus] at hstatus'
  exact ⟨⟨hst, hkind, hz, hf, hstatus', himg'.trans himg, hpix'.trans hpix, hcfg'.trans hcfg, hbuild'.trans hbuild⟩,
    hreport⟩

/-- An exception on a state that differs in the reader only. -/
theorem Raised.of_readerOnly {s u t : State} (h : Raised u t) (hu : ReaderOnly s u) : Raised s t := by
  apply h.of_same <;> rw [hu.eq]

/-! ### The operations of DECODE -/

theorem execRdSig_raises {s u : State} (h : execRdSig s = .next u) : u.st = s.st ∨ Raised s u := by
  have raised {c : Cause} (hc : c ≠ .crcMismatch) :
      Raised s (raise c { s with rd := { s.rd with chunkoff := 0, type := 0 } }) :=
    (raise_raised hc _).of_same rfl rfl rfl rfl rfl
  unfold execRdSig at h
  dsimp only at h
  split at h
  · cases h; exact .inr (raised (by decide))
  split at h
  · cases h; exact .inr (raised (by decide))
  split at h <;> cases h
  · exact .inl rfl
  · exact .inr (raised (by decide))

/-- The end of the framing is where the checksums are compared (R133). -/
theorem frameCrc_raises {p : Nat} {payload : List Byte} {s t : State} (h : frameCrc p payload s = .raised t) :
    Raised s t := by
  unfold frameCrc at h
  dsimp only at h
  split at h
  · cases h; exact raise_raised (by decide) s
  split at h
  · cases h; exact raise_raised (by decide) s
  split at h <;> cases h
  next hdiffer =>
    exact ⟨raise_failedFrom _ s _ rfl rfl rfl rfl rfl, _, reportOf_raise fun _ => Ne.symm hdiffer⟩

theorem framePayload_raises {p : Nat} {s t : State} (h : framePayload p s = .raised t) : Raised s t := by
  unfold framePayload at h
  dsimp only at h
  split at h
  · cases h; exact raise_raised (by decide) s
  split at h
  · cases h; exact raise_raised (by decide) s
  · exact frameCrc_raises h

theorem frameType_raises {p : Nat} {s t : State} (h : frameType p s = .raised t) : Raised s t := by
  unfold frameType at h
  split at h
  · cases h; exact raise_raised (by decide) s
  split at h
  · cases h; exact raise_raised (by decide) s
  · exact (framePayload_raises h).of_same rfl rfl rfl rfl rfl

theorem frameChunk_raises {s t : State} (h : frameChunk s = .raised t) : Raised s t := by
  have raised {c : Cause} (hc : c ≠ .crcMismatch) (rd : Reader) : Raised s (raise c { s with rd := rd }) :=
    (raise_raised hc _).of_same rfl rfl rfl rfl rfl
  unfold frameChunk at h
  dsimp only at h
  split at h
  · cases h; exact raised (by decide) _
  split at h
  · cases h; exact raised (by decide) _
  split at h
  · cases h; exact raised (by decide) _
  · exact (frameType_raises h).of_same rfl rfl rfl rfl rfl

theorem execChunkIhdr_raises {payload : List Byte} {s u : State} (h : execChunkIhdr payload s = .next u) :
    u.st = s.st ∨ Raised s u := by
  unfold execChunkIhdr at h
  split at h
  · cases h; exact .inr (raise_raised (by decide) s)
  split at h
  · cases h
  dsimp only at h
  split at h <;> cases h
  next hdefect => exact .inr ((raise_raised (headerDefect_ne_crcMismatch hdefect) _).of_same rfl rfl rfl rfl rfl)
  next => exact .inl rfl

theorem dispatchChunk_raises {payload : List Byte} {s u : State} (h : dispatchChunk payload s = .next u) :
    u.st = s.st ∨ Raised s u := by
  rw [dispatchChunk_eq, exec_decodeChunk] at h
  split_ifs at h
  · cases h; exact .inr (raise_raised (by decide) s)
  · cases h; exact .inr (raise_raised (by decide) s)
  · exact execChunkIhdr_raises h
  · cases h; exact .inl rfl
  · unfold execChunkIend at h
    split at h <;> cases h
    · exact .inr (raise_raised (by decide) s)
    · exact .inl rfl
  · cases h; exact .inl rfl

theorem execRdChunk_raises {s u : State} (h : execRdChunk s = .next u) : u.st = s.st ∨ Raised s u := by
  rw [execRdChunk_eq_dispatch] at h
  rcases frameChunk_cases s with ⟨c, v, hf, -⟩ | ⟨v, payload, hf, hv, -⟩
  · rw [hf] at h
    cases h
    exact .inr (frameChunk_raises hf)
  · rw [hf] at h
    have hst : v.st = s.st := by rw [hv.eq]
    exact (dispatchChunk_raises h).imp (·.trans hst) (·.of_readerOnly hv)

/-- An operation of DECODE does not move the sequencer, or it raises. -/
theorem exec_decoding_raises {s u : State} {i : Instr} (hd : s.st.decoding = true) (hi : fetch s = some i)
    (hu : exec i s = .next u) : u.st = s.st ∨ Raised s u := by
  rcases fetch_decoding hd hi with ⟨rfl, -⟩ | rfl | rfl | ⟨t, rfl⟩ | ⟨ft, rfl⟩
  · exact execRdSig_raises hu
  · exact execRdChunk_raises hu
  · change execZportInflate s = _ at hu
    unfold execZportInflate at hu
    split at hu <;> cases hu
    · exact .inr (raise_raised (by decide) s)
    · exact .inl rfl
  · obtain ⟨-, v, rfl⟩ := reconByte_cases t s u (exec_reconOf t s ▸ hu)
    exact .inl rfl
  · cases hu
    exact .inr (raise_raised (by decide) s)

/-! ### The operations of ENCODE -/

/-- A write to `OUT` raises nothing but the port's failure (R157). -/
theorem emission_raises {s : State} {r : Flow}
    (hr : (∃ t, r = .ok t ∧ t = { s with crcacc := t.crcacc, rd := t.rd, ports := t.ports, wr := t.wr }) ∨
      ∃ u, r = .raised (raise .writeFailed u) ∧
        u = { s with crcacc := u.crcacc, rd := u.rd, ports := u.ports, wr := u.wr, fresh := u.fresh }) :
    r.state.st = s.st ∨ Raised s r.state := by
  rcases hr with ⟨t, rfl, heq⟩ | ⟨u, rfl, heq⟩
  · exact .inl (by rw [Flow.state, heq])
  · refine .inr ((raise_raised (by decide) u).of_same ?_ ?_ ?_ ?_ ?_) <;> rw [heq]

theorem writeChunk_raises (type : Word) (payload : List Byte) (s : State) :
    (writeChunk type payload s).state.st = s.st ∨ Raised s (writeChunk type payload s).state :=
  emission_raises <| (writeChunk_cases type payload s).imp
    (fun ⟨t, ht, heq⟩ => ⟨t, ht, by rw [heq]⟩) fun ⟨u, hu, heq⟩ => ⟨u, hu, by rw [heq]⟩

theorem emitIdatLoop_raises (fuel : Nat) (s : State) :
    (emitIdatLoop fuel s).state.st = s.st ∨ Raised s (emitIdatLoop fuel s).state :=
  emission_raises <| (emitLoop_cases fuel s).imp_left fun ⟨t, ht, heq, _⟩ => ⟨t, ht, heq⟩

/-- The signature is written before there is a chunk type, so the report's type is 0 (R31). -/
theorem execWrSig_raises {s u : State} (h : execWrSig s = .next u) : u.st = s.st ∨ Raised s u := by
  unfold execWrSig emitOut at h
  split at h <;> cases h
  · exact .inr ⟨⟨rfl, kind_code_ne_zero .io, rfl, rfl, rfl, rfl, rfl, rfl, rfl⟩, .writeFailed, rfl, rfl, rfl, rfl, nofun⟩
  · exact .inl rfl

theorem execEmitIdat_raises {s u : State} (h : execEmitIdat s = .next u) : u.st = s.st ∨ Raised s u := by
  simp only [execEmitIdat, Flow.result_eq] at h
  split at h
  · cases h
    exact (writeChunk_raises ..).imp_right (·.of_same rfl rfl rfl rfl rfl)
  split at h <;> cases h
  exact (emitIdatLoop_raises ..).imp_right (·.of_same rfl rfl rfl rfl rfl)

/-- An operation of ENCODE does not move the sequencer, or it raises. -/
theorem exec_encoding_raises {s u : State} {i : Instr} (he : s.st.encoding = true) (hi : fetch s = some i)
    (hu : exec i s = .next u) : u.st = s.st ∨ Raised s u := by
  rcases fetch_encoding he hi with rfl | rfl | rfl | rfl | rfl | ⟨t, rfl⟩
  · exact execWrSig_raises hu
  · rw [← Flow.state_of_result hu]
    exact (writeChunk_raises ..).imp_right (·.of_same rfl rfl rfl rfl rfl)
  · exact execEmitIdat_raises hu
  · rw [← Flow.state_of_result hu]
    exact writeChunk_raises ..
  · change execZportDeflate s = _ at hu
    unfold execZportDeflate at hu
    split at hu <;> cases hu
    · exact .inr (raise_raised (by decide) s)
    · exact .inl rfl
  · obtain ⟨-, v, rfl⟩ := filtByte_cases t s u (exec_filtOf t s ▸ hu)
    exact .inl rfl

/-! ### The block's moves -/

theorem exec_fetched_raises {s u : State} {i : Instr} (hi : fetch s = some i) (hu : exec i s = .next u) :
    u.st = s.st ∨ Raised s u := by
  rcases seqState_phases s.st with hidle | hd | he
  · rw [running_of_fetch hi] at hidle; cases hidle
  · exact exec_decoding_raises hd hi hu
  · exact exec_encoding_raises he hi hu

theorem next_ne_failed (st : SeqState) : st.next? ≠ some .failed := by
  cases st <;> decide

/-- Of the moves between operations the length check of `F` is the only one that can raise (R178). -/
theorem innerMove_raises {s t : State} (h : innerMove s = .next t) (hs : s.st ≠ .failed) (ht : t.st = .failed) :
    Raised s t := by
  cases hst : s.st <;> simp only [innerMove, hst] at h
  case defilterRows =>
    have enter (h : defilterEnter s = t) : Raised s t := by
      unfold defilterEnter at h
      split at h <;> subst h
      · exact raise_raised (by decide) s
      · exact absurd ht hs
    cases hm : s.micro <;> simp only [hm] at h
    case row =>
      unfold defilterRow at h
      split at h
      · split at h <;> cases h
        exact absurd ht hs
      · cases h; cases ht
    case bytes => cases h; exact absurd ht hs
    all_goals exact enter (Host.Outcome.next.inj h)
  case filterRows =>
    cases hm : s.micro <;> simp only [hm] at h <;> cases h
    case row =>
      unfold filterRow at ht
      split at ht
      · exact absurd ht hs
      · cases ht
    all_goals exact absurd ht hs
  case collectDataChunks => cases h; cases ht
  all_goals cases h; exact absurd ht hs

/-- A move of the block into `Failed` takes an exception: the sequencer's advance does not lead there (R225, R240). -/
theorem blockMove_raises {s t : State} (h : blockMove s = .next t) (hs : s.st ≠ .failed) (ht : t.st = .failed) :
    Raised s t := by
  rcases blockMove_cases h with ⟨i, u, hi, hu, rfl⟩ | ⟨-, hinner⟩
  · rcases exec_fetched_raises hi hu with hst | hraised
    · rcases advance_st u with hsame | hnext
      · exact absurd (hst.symm.trans (hsame.symm.trans ht)) hs
      · exact absurd (ht ▸ hnext) (next_ne_failed u.st)
    · rwa [advance_of_failed hraised.failed.st]
  · exact innerMove_raises hinner hs ht

/-! ### The obligations -/

/-- Settles O47: the step is a move of the block that takes an exception, and its report is that of a cause. -/
theorem failureReportsAndStops : Obligations.FailureReportsAndStops := by
  intro s t hhost hs h ht
  obtain ⟨hfailed, c, hkind, hcause, hstored, hcomputed, hdiffer⟩ := blockMove_raises (step_of_host_nil hhost ▸ h) hs ht
  obtain ⟨hlow, hhigh⟩ := c.kind.code_bounds
  have hchecksum : t.err.kind = 3 ↔ c = .crcMismatch := by
    rw [hkind, ErrKind.code_eq_three_iff, Cause.kind_eq_checksum_iff]
  rw [← hkind] at hlow hhigh
  refine ⟨hlow, hhigh, hcause ▸ c.code_pos, hfailed.status, hfailed.zb, hfailed.fb, hfailed.img, hfailed.pix, hfailed.cfg,
    fun h3 => ?checksum, fun h3 => ?other⟩
  case checksum =>
    have hc := hchecksum.1 h3
    rw [if_pos hc] at hstored hcomputed
    refine ⟨by rw [hcause, hc]; rfl, hstored, hcomputed, ?_⟩
    rw [hstored, hcomputed]
    exact hdiffer hc
  case other =>
    have hc := mt hchecksum.2 h3
    rw [if_neg hc] at hstored hcomputed
    exact ⟨hstored, hcomputed⟩

theorem outOfRange_of_width_zero {s : State} (h : s.img.width = 0) : s.outOfRange = true :=
  (outOfRange_eq_true_iff s).2 (.inl (h ▸ Nat.zero_le _))

theorem exec_encode_noImage {s : State} (h : s.status.pixvalid = false) : exec .encode s = .next s := by
  simp [exec, execEncode, h]

/-- Settles O55: while DECODE runs there is no image, and taking an exception leaves it so. -/
theorem failedDecodeLeavesNoImage : Obligations.FailedDecodeLeavesNoImage := by
  intro s t hinv hhost hd h ht
  have hs : s.st ≠ .failed := (not_ended_of_running (running_of_decoding hd)).2
  have hfailed := (blockMove_raises (step_of_host_nil hhost ▸ h) hs ht).failed
  obtain ⟨hwidth, hheight, hvalid⟩ := hinv.decodeHidesImage hd
  rw [← hfailed.img] at hwidth hheight
  have hbusy : t.status.busy = false := by rw [hfailed.status]
  replace hvalid : t.status.pixvalid = false := by rw [hfailed.status, ← hvalid]
  refine ⟨hwidth, hheight, hvalid, exec_encode_noImage hvalid, fun x y => ?accessors⟩
  case accessors =>
    intro u
    have hout : u.outOfRange = true := outOfRange_of_width_zero hwidth
    exact ⟨exec_pixGet_outOfRange hbusy hout, exec_pixSet_outOfRange hbusy hout⟩

end Sys2Proof.Machine
end

section
/-! How long the report of an error stays (R242, R244): a move of the host keeps it, or is the acceptance of a command or a
reset. -/

namespace Sys2Proof.Machine

/-- `t` has the sequencer's state and the error report of `s`, or a command has been accepted or the block reset, with no
report (R39, R244). -/
def ReportKept (s t : State) : Prop :=
  (t.st = s.st ∧ t.err = s.err) ∨
    ((t.st = .readSignature ∨ t.st = .filterRows ∨ t.st = .start) ∧ t.err = noReport)

theorem ReportKept.refl (s : State) : ReportKept s s := .inl ⟨rfl, rfl⟩

theorem execDecode_reportKept {s t : State} (h : execDecode s = .next t) : ReportKept s t := by
  unfold execDecode at h
  split at h <;> cases h
  · exact .refl s
  · exact .inr ⟨.inl rfl, rfl⟩

theorem execEncode_reportKept {s t : State} (h : execEncode s = .next t) : ReportKept s t := by
  unfold execEncode at h
  split at h <;> cases h
  · exact .refl s
  · exact .inr ⟨.inr (.inl rfl), rfl⟩

theorem execPixGet_reportKept {s t : State} (h : execPixGet s = .next t) : ReportKept s t := by
  unfold execPixGet at h
  split at h
  · cases h; exact .refl s
  split at h <;> cases h <;> exact .inl ⟨rfl, rfl⟩

theorem execPixSet_reportKept {s t : State} (h : execPixSet s = .next t) : ReportKept s t := by
  unfold execPixSet at h
  split at h
  · cases h; exact .refl s
  split at h <;> cases h <;> exact .inl ⟨rfl, rfl⟩

/-- A command the host writes (R109). -/
theorem exec_decodeCmd_reportKept {s t : State} {v : Byte} (h : exec (decodeCmd v) s = .next t) : ReportKept s t := by
  unfold decodeCmd at h
  split_ifs at h
  · exact execDecode_reportKept h
  · exact execEncode_reportKept h
  · exact execPixGet_reportKept h
  · exact execPixSet_reportKept h
  · cases h; exact .refl s

/-- A write to another register reaches neither the sequencer nor the report (R32, R33). -/
theorem writeIdle_reportKept (w : RegWrite) (s : State) : ReportKept s (writeIdle w s) := by
  cases w with
  | fctl v => rw [writeIdle_fctl]; exact .inl ⟨rfl, rfl⟩
  | idatmax v => rw [writeIdle_idatmax]; exact .inl ⟨rfl, rfl⟩
  | _ => exact .inl ⟨rfl, rfl⟩

theorem writeReg_reportKept (w : RegWrite) (s : State) : ReportKept s (writeReg w s) := by
  unfold writeReg
  split
  · exact .refl s
  · exact writeIdle_reportKept w s

theorem hostWrite_reportKept {w : RegWrite} {s t : State} (h : hostWrite w s = .next t) : ReportKept s t := by
  cases w with
  | cmd v => exact exec_decodeCmd_reportKept h
  | _ => cases h; exact writeReg_reportKept _ s

/-- A move of the host in `Failed`, where the block makes none of its own (R215, R242). -/
theorem hostMove_reportKept {m : HostMove} {s t : State} (hs : s.st = .failed) (h : hostMove m s = .next t) :
    ReportKept s t := by
  cases m with
  | run =>
    have hmove : blockMove s = .next s := blockMove_idle (by rw [hs]; rfl)
    cases hmove.symm.trans h
    exact .refl s
  | write w => exact hostWrite_reportKept h
  | read r =>
    cases (hostRead_eq r s).symm.trans h
    exact .inl ⟨rfl, rfl⟩
  | input bs failAt =>
    change giveInput bs failAt s = _ at h
    unfold giveInput at h
    split at h <;> cases h
    exact .inl ⟨rfl, rfl⟩
  | output failAt =>
    change giveOutput failAt s = _ at h
    unfold giveOutput at h
    split at h <;> cases h
    exact .inl ⟨rfl, rfl⟩
  | reset =>
    cases h
    exact .inr ⟨.inr (.inr rfl), rfl⟩

/-- Settles O48: the step is a move of the host, or the block's, which in `Failed` is none. -/
theorem reportStaysUntilTheNextCommand : Obligations.ReportStaysUntilTheNextCommand := by
  intro s t hs h
  have hkept : ReportKept s t := by
    cases hhost : s.host with
    | nil => exact hostMove_reportKept (m := .run) hs ((step_of_host_nil hhost).symm.trans h)
    | cons m rest => exact hostMove_reportKept (s := { s with host := rest }) hs (step_of_host_cons hhost ▸ h)
  rwa [ReportKept, hs] at hkept

end Sys2Proof.Machine
end
